-- ==== Sys2Proof/Word.lean ====
section
/-! DEFINITION. The word types of the MT19937 PRNG core (spec/00_scope.md R10, R12; spec/20_memory.md R52). -/

namespace Sys2Proof

/-- A word: 32 bits, unsigned; bit 0 is the least significant (R12). -/
abbrev Word := BitVec 32

/-- A data or keystream byte (R52). -/
abbrev Byte := BitVec 8

/-- A command word `cmd[39:0]` (R10, R72). -/
abbrev Command := BitVec 40

/-- A response word `rsp[35:0]` (R10, R73). -/
abbrev ResponseWord := BitVec 36

end Sys2Proof
end

