-- ==== Sys2Proof/Syntax.lean ====
section
/-! DEFINITION. The command set (spec/30_encoding.md R72, R76, R78): fifteen commands, one constructor each. -/

namespace Sys2Proof

/-- The four argument formats of R72. -/
inductive Format where
  /-- no operand; `ARG[31:0]` must be zero -/
  | z
  /-- a 32-bit word in `ARG[31:0]` -/
  | w
  /-- a 16-bit key in `ARG[15:0]`; `ARG[31:16]` must be zero -/
  | h
  /-- a byte in `ARG[7:0]`; `ARG[31:8]` must be zero -/
  | b
  deriving DecidableEq, Repr

/-- The fifteen opcodes of R78, in the table's order. -/
inductive Opcode where
  | nop | seed | seed16 | extract | nextbyte | xorb | byteiter | temper | untemper
  | ldbegin | ldraw | ldobs | ldcommit | rdstat | clrerr
  deriving DecidableEq, Repr

/-- One command with its operand (R76): a row of spec/opcode_table.json each. -/
inductive Instr where
  /-- `NOP` (R170) -/
  | nop
  /-- `SEED s` (R101) -/
  | seed (s : Word)
  /-- `SEED16 k` (R102) -/
  | seed16 (k : BitVec 16)
  /-- `EXTRACT` (R124) -/
  | extract
  /-- `NEXTBYTE` (R151) -/
  | nextbyte
  /-- `XORB d` (R152) -/
  | xorb (d : Byte)
  /-- `BYTEITER` (R153) -/
  | byteiter
  /-- `TEMPER v` (R121) -/
  | temper (v : Word)
  /-- `UNTEMPER v` (R131) -/
  | untemper (v : Word)
  /-- `LDBEGIN` (R140) -/
  | ldbegin
  /-- `LDRAW w` (R141) -/
  | ldraw (w : Word)
  /-- `LDOBS o` (R142) -/
  | ldobs (o : Word)
  /-- `LDCOMMIT` (R143) -/
  | ldcommit
  /-- `RDSTAT` (R171) -/
  | rdstat
  /-- `CLRERR` (R172) -/
  | clrerr
  deriving DecidableEq, Repr

end Sys2Proof
end

