-- ==== Sys2Proof/Machine/Operands.lean ====
section
/-! DEFINITION. Argument formats and operands (spec/30_encoding.md R72, R76, R79; spec/20_memory.md R52).
The operand is a contiguous low part of ARG, unsigned; nothing is sign-extended, scaled or shifted. -/

namespace Sys2Proof.Machine

/-- The bits of ARG that a format requires to be zero (R72). -/
def mustBeZero : Format → Word
  | .z => 0xFFFFFFFF
  | .w => 0x00000000
  | .h => 0xFFFF0000
  | .b => 0xFFFFFF00

/-- ARG has no one in a must-be-zero bit of the format (R72, R79). -/
def fits (f : Format) (arg : Word) : Bool :=
  arg &&& mustBeZero f == 0

/-- The format of each opcode (R72, R78). -/
def formatOf : Opcode → Format
  | .nop => .z
  | .seed => .w
  | .seed16 => .h
  | .extract => .z
  | .nextbyte => .z
  | .xorb => .b
  | .byteiter => .z
  | .temper => .w
  | .untemper => .w
  | .ldbegin => .z
  | .ldraw => .w
  | .ldobs => .w
  | .ldcommit => .z
  | .rdstat => .z
  | .clrerr => .z

/-- `zext_32` of a 16-bit key (R13, R76, R102). -/
def zextKey (k : BitVec 16) : Word := k.setWidth 32

/-- `zext_32` of a byte (R13, R65, R73). -/
def zextByte (b : Byte) : Word := b.setWidth 32

/-- `zext_32` of the load counter (R13, R180). -/
def zextCount (n : BitVec 10) : Word := n.setWidth 32

/-- The format-`H` operand of ARG: `ARG[15:0]` (R76). -/
def keyOperand (arg : Word) : BitVec 16 := arg.setWidth 16

/-- The format-`B` operand of ARG: `ARG[7:0]` (R76). -/
def byteOperand (arg : Word) : Byte := arg.setWidth 8

/-- The opcode of a command. -/
def opcodeOf : Instr → Opcode
  | .nop => .nop
  | .seed _ => .seed
  | .seed16 _ => .seed16
  | .extract => .extract
  | .nextbyte => .nextbyte
  | .xorb _ => .xorb
  | .byteiter => .byteiter
  | .temper _ => .temper
  | .untemper _ => .untemper
  | .ldbegin => .ldbegin
  | .ldraw _ => .ldraw
  | .ldobs _ => .ldobs
  | .ldcommit => .ldcommit
  | .rdstat => .rdstat
  | .clrerr => .clrerr

/-- ARG of a command: its operand zero-extended to 32 bits, 0 if there is none (R82). -/
def argOf : Instr → Word
  | .seed s => s
  | .seed16 k => zextKey k
  | .xorb d => zextByte d
  | .temper v => v
  | .untemper v => v
  | .ldraw w => w
  | .ldobs o => o
  | .nop => 0
  | .extract => 0
  | .nextbyte => 0
  | .byteiter => 0
  | .ldbegin => 0
  | .ldcommit => 0
  | .rdstat => 0
  | .clrerr => 0

/-- The command that an opcode makes of an argument (R76). -/
def instrOf (op : Opcode) (arg : Word) : Instr :=
  match op with
  | .nop => .nop
  | .seed => .seed arg
  | .seed16 => .seed16 (keyOperand arg)
  | .extract => .extract
  | .nextbyte => .nextbyte
  | .xorb => .xorb (byteOperand arg)
  | .byteiter => .byteiter
  | .temper => .temper arg
  | .untemper => .untemper arg
  | .ldbegin => .ldbegin
  | .ldraw => .ldraw arg
  | .ldobs => .ldobs arg
  | .ldcommit => .ldcommit
  | .rdstat => .rdstat
  | .clrerr => .clrerr

end Sys2Proof.Machine
end

