-- ==== Sys2Proof/WellFormed.lean ====
section
/-! DEFINITION. When a command's argument respects its format (spec/30_encoding.md R72, R79).
The operand types of Instr already have the formats' widths, so every Instr passes (Laws/Encoding.lean); what can be
ill-formed is an opcode with a raw 32-bit argument, which is what the decoder and the assembler check. -/

namespace Sys2Proof

/-- An opcode with a raw argument: every must-be-zero bit of the opcode's format is zero (R79). -/
def wellFormedArg (op : Opcode) (arg : Word) : Bool :=
  Machine.fits (Machine.formatOf op) arg

/-- A command is well-formed when its argument respects its opcode's format. -/
def Instr.wellFormed (i : Instr) : Bool :=
  wellFormedArg (Machine.opcodeOf i) (Machine.argOf i)

end Sys2Proof
end

