-- ==== Sys2Proof/Decode.lean ====
section
/-! DEFINITION. Decoder, encoder, opcode map and assembler (spec/30_encoding.md R72, R78, R79, R80, R82). -/

namespace Sys2Proof

/-- `cmd[39:32]`, the opcode field OP (R72). -/
def opField (c : Command) : Byte := c.extractLsb' 32 8

/-- `cmd[31:0]`, the argument field ARG (R72). -/
def argField (c : Command) : Word := c.extractLsb' 0 32

/-- The opcode numbers of R78. -/
def opcodeNumber : Opcode → Byte
  | .nop => 0x00
  | .seed => 0x01
  | .seed16 => 0x02
  | .extract => 0x03
  | .nextbyte => 0x04
  | .xorb => 0x05
  | .byteiter => 0x06
  | .temper => 0x08
  | .untemper => 0x09
  | .ldbegin => 0x10
  | .ldraw => 0x11
  | .ldobs => 0x12
  | .ldcommit => 0x13
  | .rdstat => 0x20
  | .clrerr => 0x21

/-- The opcode a number of R78 stands for; the other numbers (0x07, 0x0A to 0x0F, 0x14 to 0x1F, 0x22 to 0xFF) stand for
none (R79). -/
def opcodeOfNumber (n : Byte) : Option Opcode :=
  match n.toNat with
  | 0x00 => some .nop
  | 0x01 => some .seed
  | 0x02 => some .seed16
  | 0x03 => some .extract
  | 0x04 => some .nextbyte
  | 0x05 => some .xorb
  | 0x06 => some .byteiter
  | 0x08 => some .temper
  | 0x09 => some .untemper
  | 0x10 => some .ldbegin
  | 0x11 => some .ldraw
  | 0x12 => some .ldobs
  | 0x13 => some .ldcommit
  | 0x20 => some .rdstat
  | 0x21 => some .clrerr
  | _ => none

/-- Why a word is no command (R79). Both reasons raise `IllegalCommand` (R182). -/
inductive DecodeError where
  /-- OP is not one of the fifteen opcode numbers -/
  | unlistedOpcode (op : Byte)
  /-- OP is listed but ARG has a one in a must-be-zero bit of its format -/
  | nonzeroMustBeZero (op : Opcode) (arg : Word)
  deriving DecidableEq, Repr

/-- The decoder, total on all 2^40 words (R75 step 1, R78, R79). -/
def decode (c : Command) : Except DecodeError Instr :=
  match opcodeOfNumber (opField c) with
  | none => .error (.unlistedOpcode (opField c))
  | some op =>
    if wellFormedArg op (argField c) then .ok (Machine.instrOf op (argField c))
    else .error (.nonzeroMustBeZero op (argField c))

/-- `{OP, ARG}` (R72). -/
def commandWord (op : Opcode) (arg : Word) : Command := opcodeNumber op ++ arg

/-- The word of a command: `cmd = {OP, ARG}` with ARG the zero-extended operand (R72, R82). -/
def encode (i : Instr) : Command := commandWord (Machine.opcodeOf i) (Machine.argOf i)

/-- A row of the opcode map R78: a word `c` selects it when `c & mask = match`. -/
structure OpRow where
  opcode  : Opcode
  pattern : Command
  mask    : Command
  deriving DecidableEq, Repr

/-- The opcode map, row by row as R78 prints it. -/
def opcodeMap : List OpRow :=
  [ ⟨.nop,      0x0000000000, 0xFFFFFFFFFF⟩,
    ⟨.seed,     0x0100000000, 0xFF00000000⟩,
    ⟨.seed16,   0x0200000000, 0xFFFFFF0000⟩,
    ⟨.extract,  0x0300000000, 0xFFFFFFFFFF⟩,
    ⟨.nextbyte, 0x0400000000, 0xFFFFFFFFFF⟩,
    ⟨.xorb,     0x0500000000, 0xFFFFFFFF00⟩,
    ⟨.byteiter, 0x0600000000, 0xFFFFFFFFFF⟩,
    ⟨.temper,   0x0800000000, 0xFF00000000⟩,
    ⟨.untemper, 0x0900000000, 0xFF00000000⟩,
    ⟨.ldbegin,  0x1000000000, 0xFFFFFFFFFF⟩,
    ⟨.ldraw,    0x1100000000, 0xFF00000000⟩,
    ⟨.ldobs,    0x1200000000, 0xFF00000000⟩,
    ⟨.ldcommit, 0x1300000000, 0xFFFFFFFFFF⟩,
    ⟨.rdstat,   0x2000000000, 0xFFFFFFFFFF⟩,
    ⟨.clrerr,   0x2100000000, 0xFFFFFFFFFF⟩ ]

/-- The word selects the row (R78). -/
def selects (c : Command) (r : OpRow) : Bool := c &&& r.mask == r.pattern

/-- The instruction the decoder reads from a word whose low `nbits` bits are those of `w`; the bits above are zero.
The one command word is 40 bits and its bit 0 is bit 0 of the table (R72, R80). -/
def decodeTableWord (nbits w : Nat) : Option Instr :=
  (decode (BitVec.ofNat 40 (w % 2 ^ nbits))).toOption

/-- The mnemonics of R78. -/
def mnemonicOf : Opcode → String
  | .nop => "NOP"
  | .seed => "SEED"
  | .seed16 => "SEED16"
  | .extract => "EXTRACT"
  | .nextbyte => "NEXTBYTE"
  | .xorb => "XORB"
  | .byteiter => "BYTEITER"
  | .temper => "TEMPER"
  | .untemper => "UNTEMPER"
  | .ldbegin => "LDBEGIN"
  | .ldraw => "LDRAW"
  | .ldobs => "LDOBS"
  | .ldcommit => "LDCOMMIT"
  | .rdstat => "RDSTAT"
  | .clrerr => "CLRERR"

/-- A line of a program: a mnemonic and an unsigned operand or none (R82). -/
structure AsmLine where
  mnemonic : String
  operand  : Option Nat
  deriving DecidableEq, Repr

/-- The operand fits the format (R82). DESIGN CHOICE, where R82 is silent: a format-W, H or B mnemonic with no operand is
rejected, not assembled with the operand 0 (notes/assumptions/8.md). -/
def operandFits (f : Format) (operand : Option Nat) : Bool :=
  match f, operand with
  | .z, none => true
  | .z, some _ => false
  | .w, some n => n < 2 ^ 32
  | .h, some n => n < 2 ^ 16
  | .b, some n => n < 2 ^ 8
  | .w, none => false
  | .h, none => false
  | .b, none => false

/-- The command an opcode and an operand make; none where the operand does not fit (R82). -/
def assembleOp (op : Opcode) (operand : Option Nat) : Option Instr :=
  if operandFits (Machine.formatOf op) operand then
    some (Machine.instrOf op (BitVec.ofNat 32 (operand.getD 0)))
  else none

/-- The assembler: "it never emits an illegal word by itself" (R82). -/
def assemble (l : AsmLine) : Option Command :=
  match (opcodeMap.map OpRow.opcode).find? (fun op => mnemonicOf op == l.mnemonic) with
  | none => none
  | some op => (assembleOp op l.operand).map encode

end Sys2Proof
end

