-- ==== Sys2Proof/Config.lean ====
section
/-! DEFINITION. What the spec leaves open, as constants with no body: nothing can evaluate them or prove a value of them.
The parameters the spec fixes (R9) are in Machine/Params.lean. -/

namespace Sys2Proof

/-- Word `i` of MT after reset. R32, R33 and U9: unspecified, "never zero, never some fixed value".
DESIGN CHOICE, unsafe (two resets give the same words): notes/assumptions/1.md. -/
opaque Config.resetMtWord : Nat → Word

/-- Word `i` of LB after reset (R32, U9). DESIGN CHOICE, unsafe: notes/assumptions/1.md. -/
opaque Config.resetLbWord : Nat → Word

/-- KSW after reset (R32, U9). DESIGN CHOICE, unsafe: notes/assumptions/1.md. -/
opaque Config.resetKsw : Word

/-- Cycles beyond the first from the acceptance of the `n`-th command to its response: LATENCY is any finite number of at
least one and may differ from command to command (R10, R71, D18). Safe: notes/assumptions/4.md. -/
opaque Config.extraCycles : Nat → Nat

end Sys2Proof
end

