-- ==== Sys2Proof/Machine/Params.lean ====
section
/-! DEFINITION. The algorithm parameters of spec/00_scope.md R9, all fixed by the spec, none configurable. -/

namespace Sys2Proof.Machine

/-- N, the number of words in the state array (R9). -/
abbrev N : Nat := 624

/-- M, the offset of the third word read by the twist (R9). -/
abbrev M : Nat := 397

/-- F, the seed-expansion multiplier (R9). -/
def seedFactor : Word := 0x6c078965

/-- SEED_SHIFT (R9). -/
def seedShift : Nat := 30

/-- A, the twist's xor constant, applied when x is odd (R9). -/
def twistConst : Word := 0x9908B0DF

/-- LOWER_MASK, the low 31 bits (R9). -/
def lowerMask : Word := 0x7FFFFFFF

/-- UPPER_MASK, the top bit (R9). -/
def upperMask : Word := 0x80000000

/-- T1_SHIFT and T1_MASK (R9). -/
def t1Shift : Nat := 11
def t1Mask : Word := 0xFFFFFFFF

/-- T2_SHIFT and T2_MASK (R9). -/
def t2Shift : Nat := 7
def t2Mask : Word := 0x9D2C5680

/-- T3_SHIFT and T3_MASK (R9). -/
def t3Shift : Nat := 15
def t3Mask : Word := 0xEFC60000

/-- T4_SHIFT, a step with no mask (R9). -/
def t4Shift : Nat := 18

/-- The full mask that R132 writes for the two right-shift steps. -/
def fullMask : Word := 0xFFFFFFFF

end Sys2Proof.Machine
end

