-- ==== Sys2Proof/Machine/RegFile.lean ====
section
/-! DEFINITION. A register file of exactly 624 words (spec/10_state.md R20, R30): the type of MT and of LB. -/

namespace Sys2Proof.Machine

/-- 624 ordered words; "length is always exactly 624; never resized" (R20). -/
abbrev Words := Vector Word N

/-- Read word `i mod 624` (R13 `MT[i]`; the twist's indices are written mod 624 in R110, every other index is below 624). -/
def wordAt (a : Words) (i : Nat) : Word := a[i % N]'(Nat.mod_lt i (by decide))

/-- Write word `i mod 624` (R13 `MT[i] <- v`). -/
def setWord (a : Words) (i : Nat) (v : Word) : Words := a.set (i % N) v (Nat.mod_lt i (by decide))

end Sys2Proof.Machine
end

