-- ==== Sys2Proof/Machine/State.lean ====
section
/-! DEFINITION. The state of one core instance (spec/10_state.md R35), its two ports as plain data, reset, and the reasons
a step could stop. -/

namespace Sys2Proof.Machine

/-- The status codes that are ever produced (R74); 0x4 to 0xE are reserved and have no constructor (U15). -/
inductive Status where
  /-- 0x0: command done -/
  | ok
  /-- 0x1: LDCOMMIT with LCNT != 624 (R180) -/
  | errInvalidStateLength
  /-- 0x2: EXTRACT, NEXTBYTE or XORB with VALID = 0 (R181) -/
  | errUnseeded
  /-- 0x3: the word is not one of R78 (R182) -/
  | errIllegalCommand
  /-- 0xF: the cursor invariant is broken (R183) -/
  | errFatal
  deriving DecidableEq, Repr

/-- A response: status and 32 bits of data (R73). -/
structure Response where
  status : Status
  data   : Word
  deriving DecidableEq, Repr

/-- The errors that `raise` takes (R180 to R183). -/
inductive CoreError where
  /-- `InvalidStateLength` (R180) -/
  | invalidStateLength
  /-- `Unseeded` (R181) -/
  | unseeded
  /-- `IllegalCommand` (R182) -/
  | illegalCommand
  /-- `FatalCursor` (R183) -/
  | fatalCursor
  deriving DecidableEq, Repr

/-- What the host does at the core's ports, one item after another (R70, R206; notes/assumptions/2.md, 3.md). -/
inductive HostInput where
  /-- the host offers this word and takes the response -/
  | command (w : Command)
  /-- the host asserts `rst` with no command in flight (R200) -/
  | reset
  /-- the host offers this word and asserts `rst` before the response is delivered (R201) -/
  | commandThenReset (w : Command)
  deriving DecidableEq, Repr

/-- One core instance (R35) and its ports. -/
structure State where
  /-- MT[0..623] (R20) -/
  mt        : Words
  /-- IDX, the cursor; legal 0..624 (R23) -/
  idx       : BitVec 10
  /-- VALID (R27) -/
  valid     : Bool
  /-- KSW, the output word being split into bytes (R29) -/
  ksw       : Word
  /-- KSN, how many bytes of KSW are left; legal 0..4 (R29) -/
  ksn       : BitVec 3
  /-- LB[0..623], the load buffer (R30) -/
  lb        : Words
  /-- LCNT; legal 0..625 (R30) -/
  lcnt      : BitVec 10
  /-- E_LEN (R27) -/
  eLen      : Bool
  /-- E_UNS (R27) -/
  eUns      : Bool
  /-- E_ILL (R27) -/
  eIll      : Bool
  /-- FATAL (R27) -/
  fatal     : Bool
  /-- the command port: what the host has still to offer, oldest first (R70, R71; notes/assumptions/2.md) -/
  inputs    : List HostInput
  /-- the response port: what has been delivered, oldest first (R71, R208; notes/assumptions/2.md) -/
  responses : List Response
  deriving DecidableEq, Repr

/-- Reasons to stop with a fault: none. "No command hangs" and the step is total (R75); every error of the spec is a
response, a next state (R184). Safe: there is nothing to raise. -/
inductive Fault where
  deriving DecidableEq, Repr

/-- Reasons to refuse an instruction. -/
inductive Refusal where
  /-- raised by an arm of exec that has no meaning yet; no arm of this model raises it. Safe. -/
  | notModelled (mnemonic : String)
  deriving DecidableEq, Repr

/-- MT after reset: 624 free words (R32, U9; notes/assumptions/1.md). -/
@[irreducible] def resetMt : Words := Vector.ofFn fun i => Config.resetMtWord i

/-- LB after reset: 624 free words (R32, U9; notes/assumptions/1.md). -/
@[irreducible] def resetLb : Words := Vector.ofFn fun i => Config.resetLbWord i

/-- The reset state (R32, R200). MT, LB and KSW are unspecified: free words (notes/assumptions/1.md). Both ports are
empty: the core waits for its first command (R200). -/
def State.reset : State where
  mt := resetMt
  idx := 624#10
  valid := false
  ksw := Config.resetKsw
  ksn := 0#3
  lb := resetLb
  lcnt := 0#10
  eLen := false
  eUns := false
  eIll := false
  fatal := false
  inputs := []
  responses := []

end Sys2Proof.Machine
end

