-- ==== Sys2Proof/Machine/Flags.lean ====
section
/-! DEFINITION. The sticky error bits (spec/10_state.md R27, spec/60_exceptions.md R180 to R183) and the STATUS word
(spec/10_state.md R28, spec/47_system.md R171). -/

namespace Sys2Proof.Machine

/-- Set the bit that records an error (R27): exactly one bit per error (R185). -/
def setErrorBit (e : CoreError) (s : State) : State :=
  match e with
  | .invalidStateLength => { s with eLen := true }
  | .unseeded => { s with eUns := true }
  | .illegalCommand => { s with eIll := true }
  | .fatalCursor => { s with fatal := true }

/-- Clear the three sticky bits together; FATAL is not touched (R172). -/
def clearErrorBits (s : State) : State :=
  { s with eLen := false, eUns := false, eIll := false }

/-- `STATUS = {3'b000, FATAL, E_ILL, E_UNS, E_LEN, VALID, 1'b0, LCNT[9:0], KSN[2:0], IDX[9:0]}` (R171, R28). -/
def statusWord (s : State) : Word :=
  0#3 ++ BitVec.ofBool s.fatal ++ BitVec.ofBool s.eIll ++ BitVec.ofBool s.eUns ++ BitVec.ofBool s.eLen ++
    BitVec.ofBool s.valid ++ 0#1 ++ s.lcnt ++ s.ksn ++ s.idx

end Sys2Proof.Machine
end

