-- ==== Sys2Proof/Machine/SeedExpander.lean ====
section
/-! DEFINITION. SeedExpander (spec/40_seed_expander.md R100, R103). -/

namespace Sys2Proof.Machine

/-- One step of the recurrence: `trunc_32(0x6c078965 * (p ^ (p >> 30)) + i)`, where `p` is the word before (R100). -/
def seedNext (p : Word) (i : Nat) : Word :=
  seedFactor * (p ^^^ (p >>> seedShift)) + BitVec.ofNat 32 i

/-- `n` words in index order: the word `w` at index `i - 1`, then those at `i`, `i + 1`, ..., each from the word just
computed (R100). -/
def seedWords : Nat → Nat → Word → List Word
  | 0, _, _ => []
  | n + 1, i, w => w :: seedWords n (i + 1) (seedNext w i)

theorem seedWords_length (n i : Nat) (w : Word) : (seedWords n i w).length = n := by
  induction n generalizing i w with
  | zero => rfl
  | succ n ih => simp [seedWords, ih]

/-- `seed_expand(s)`: MT[0] is `s`, and for i = 1 .. 623 in this order MT[i] comes from MT[i-1] (R100). All 624 words are
written, so the old contents play no part. -/
@[irreducible] def seedExpand (s : Word) : Words := ⟨(seedWords N 1 s).toArray, by simp [seedWords_length]⟩

end Sys2Proof.Machine
end

