-- ==== Sys2Proof/Machine/Transform.lean ====
section
/-! DEFINITION. TemperTransform (spec/42_temper_extract.md R120) and UntemperTransform (spec/43_untemper.md R130, R132). -/

namespace Sys2Proof.Machine

/-- A right-shift step: `y ^ ((y >> k) & m)` (R120). -/
def stepRight (y : Word) (k : Nat) (m : Word) : Word := y ^^^ ((y >>> k) &&& m)

/-- A left-shift step: `y ^ ((y << k) & m)`; bits that leave the word are dropped (R120). -/
def stepLeft (y : Word) (k : Nat) (m : Word) : Word := y ^^^ ((y <<< k) &&& m)

/-- `temper(y)`: four steps applied strictly in this order (R120). -/
def temper (y : Word) : Word :=
  let y1 := stepRight y t1Shift t1Mask
  let y2 := stepLeft y1 t2Shift t2Mask
  let y3 := stepLeft y2 t3Shift t3Mask
  y3 ^^^ (y3 >>> t4Shift)

/-- `x[b] = v` on a word whose other bits stay. -/
def putBit (x : Word) (b : Nat) (v : Bool) : Word :=
  if v then x ||| BitVec.twoPow 32 b else x &&& ~~~ BitVec.twoPow 32 b

/-- The bit that `undo_right` computes at `b` from the final bit `b + k` (R132). -/
def undoRightBit (z : Word) (k : Nat) (m x : Word) (b : Nat) : Word :=
  putBit x b (if b + k ≤ 31 then z.getLsbD b ^^ (x.getLsbD (b + k) && m.getLsbD b) else z.getLsbD b)

/-- `undo_right(z, k, m)`: solves `x ^ ((x >> k) & m) = z`, for b = 31, 30, ..., 0 in this order (R132). -/
@[irreducible] def undoRight (z : Word) (k : Nat) (m : Word) : Word :=
  (List.range 32).reverse.foldl (undoRightBit z k m) 0

/-- The bit that `undo_left` computes at `b` from the final bit `b - k` (R132). -/
def undoLeftBit (z : Word) (k : Nat) (m x : Word) (b : Nat) : Word :=
  putBit x b (if k ≤ b then z.getLsbD b ^^ (x.getLsbD (b - k) && m.getLsbD b) else z.getLsbD b)

/-- `undo_left(z, k, m)`: solves `x ^ ((x << k) & m) = z`, for b = 0, 1, ..., 31 in this order (R132). -/
@[irreducible] def undoLeft (z : Word) (k : Nat) (m : Word) : Word :=
  (List.range 32).foldl (undoLeftBit z k m) 0

/-- `untemper(z)`: the four steps undone in reverse order (R132). -/
def untemper (z : Word) : Word :=
  let y3 := undoRight z t4Shift fullMask
  let y2 := undoLeft y3 t3Shift t3Mask
  let y1 := undoLeft y2 t2Shift t2Mask
  undoRight y1 t1Shift fullMask

end Sys2Proof.Machine
end

