-- ==== Sys2Proof/Machine/TwistEngine.lean ====
section
/-! DEFINITION. TwistEngine (spec/41_twist_engine.md R110 to R113): one sequential forward pass in place. -/

namespace Sys2Proof.Machine

/-- `x` of the twist: bit 31 of one word over bits 30:0 of the next (R110, R112). -/
def twistJoin (hi lo : Word) : Word := (hi &&& upperMask) + (lo &&& lowerMask)

/-- `xA` of the twist: `x >> 1`, xored with A if `x` is odd (R110). -/
def twistMix (x : Word) : Word :=
  if x.getLsbD 0 then (x >>> 1) ^^^ twistConst else x >>> 1

/-- Iteration `i` of the pass, on the array as the iterations before it left it (R110, R111). -/
def twistStep (mt : Words) (i : Nat) : Words :=
  setWord mt i (wordAt mt (i + M) ^^^ twistMix (twistJoin (wordAt mt i) (wordAt mt (i + 1))))

/-- The array after the first `n` iterations of the pass. -/
def twistPass (mt : Words) (n : Nat) : Words := (List.range n).foldl twistStep mt

/-- The 624 words after the pass for i = 0, 1, ..., 623 in this order (R110). The cursor is reset by `twistState`. -/
@[irreducible] def twist (mt : Words) : Words := twistPass mt N

end Sys2Proof.Machine
end

