-- ==== Sys2Proof/Machine/Ops.lean ====
section
/-! DEFINITION. The operations the meanings share: responding, raising an error, the FATAL check, extract, next_byte, the
generator's construction, the load buffer, reset. -/

namespace Sys2Proof.Machine

/-- What every meaning answers. -/
abbrev Result := Host.Outcome State Fault Refusal

/-- The four bits of a status (R74). -/
def statusCode : Status → BitVec 4
  | .ok => 0x0
  | .errInvalidStateLength => 0x1
  | .errUnseeded => 0x2
  | .errIllegalCommand => 0x3
  | .errFatal => 0xF

/-- The response word `{ST[3:0], DATA[31:0]}` (R73). -/
def responseWord (r : Response) : ResponseWord := statusCode r.status ++ r.data

/-- `respond(ST, DATA)`: deliver the command's one response (R13, R71). -/
def respond (st : Status) (data : Word) (s : State) : State :=
  { s with responses := s.responses ++ [⟨st, data⟩] }

/-- The status code of an error (R74). -/
def errorStatus : CoreError → Status
  | .invalidStateLength => .errInvalidStateLength
  | .unseeded => .errUnseeded
  | .illegalCommand => .errIllegalCommand
  | .fatalCursor => .errFatal

/-- The state change an error's own rule names besides its sticky bit: `LCNT <- 0` for InvalidStateLength (R180), nothing
for the others (R181, R182, R183). -/
def errorEffect (e : CoreError) (s : State) : State :=
  match e with
  | .invalidStateLength => { s with lcnt := 0#10 }
  | .unseeded => s
  | .illegalCommand => s
  | .fatalCursor => s

/-- `raise <Error>(info)`, on the state from before the command: sticky bit, the error's own state change, the response,
nothing else (R184). It is the core's whole "trap entry": nothing is saved and control goes nowhere. -/
def raise (e : CoreError) (info : Word) (s : State) : State :=
  respond (errorStatus e) info (errorEffect e (setErrorBit e s))

/-- The FATAL check in front of every command but RDSTAT: `respond(ERR_FATAL, 0)`, no state change (R75 step 2, R185). -/
def unlessFatal (body : State → State) (s : State) : State :=
  if s.fatal then respond .errFatal 0#32 s else body s

/-- What a word that matches no row of R78 does (R75 steps 2 and 3, R182). -/
def rejectWord (s : State) : State := unlessFatal (raise .illegalCommand 0#32) s

/-- `twist()`: the pass over MT, then `IDX <- 0` (R110). -/
def twistState (s : State) : State := { s with mt := twist s.mt, idx := 0#10 }

/-- The twist of `extract()`: exactly when IDX = 624 (R113, R123). -/
def twistIfDue (s : State) : State := if s.idx = 624#10 then twistState s else s

/-- The second half of `extract()`: `y = MT[IDX]`, `IDX <- IDX + 1`, return `temper(y)` (R123). IDX is below 624 here. -/
def takeWord (s : State) : Word × State :=
  (temper (wordAt s.mt s.idx.toNat), { s with idx := s.idx + 1#10 })

/-- `extract()` (R123). -/
def extract (s : State) : Except CoreError (Word × State) :=
  if 624 < s.idx.toNat then .error .fatalCursor else .ok (takeWord (twistIfDue s))

/-- `KSW[8*KSN-1 : 8*KSN-8]` as an unsigned number (R150, R12). At an illegal KSN above 4 the field lies above bit 31 of
KSW, where the unsigned word has only zeros: the byte is 0. No free value is drawn there (R7, R75). DEDUCED, for states that
no run reaches: notes/assumptions/5.md. It is never called with KSN = 0. -/
def byteOfWord (w : Word) (n : BitVec 3) : Byte := w.extractLsb' (8 * n.toNat - 8) 8

/-- The delivery half of `next_byte()`: the byte, then `KSN <- KSN - 1` (R150). -/
def takeByte (s : State) : Byte × State :=
  (byteOfWord s.ksw s.ksn, { s with ksn := s.ksn - 1#3 })

/-- `next_byte()` (R150). If `extract()` raises, KSW and KSN are not written. -/
def nextByte (s : State) : Except CoreError (Byte × State) :=
  if s.ksn = 0#3 then
    match extract s with
    | .error e => .error e
    | .ok (w, s') => .ok (takeByte { s' with ksw := w, ksn := 4#3 })
  else .ok (takeByte s)

/-- The common shape of EXTRACT, NEXTBYTE and XORB: Unseeded if VALID = 0, then draw; an error of the draw leaves the state
from before the command (R124, R151, R152, R184). -/
def answerDraw (draw : State → Except CoreError (Word × State)) (s : State) : State :=
  if s.valid then
    match draw s with
    | .error e => raise e 0#32 s
    | .ok (v, s') => respond .ok v s'
  else raise .unseeded 0#32 s

/-- A drawn byte combined with `d` and zero-extended (R151 with `d = 0`, R152). -/
def drawByteXor (d : Byte) (s : State) : Except CoreError (Word × State) :=
  match nextByte s with
  | .error e => .error e
  | .ok (b, s') => .ok (zextByte (d ^^^ b), s')

/-- A drawn byte, zero-extended (R151). -/
def drawByte (s : State) : Except CoreError (Word × State) :=
  match nextByte s with
  | .error e => .error e
  | .ok (b, s') => .ok (zextByte b, s')

/-- A newly made generator: the array, cursor 624, a fresh byte stream, VALID (R101, R143). -/
def installGenerator (a : Words) (s : State) : State :=
  { s with mt := a, idx := 624#10, ksn := 0#3, valid := true }

/-- Append one raw word to the load buffer, or remember "too many" (R141). -/
def appendWord (w : Word) (s : State) : State :=
  if s.lcnt.toNat < N then { s with lb := setWord s.lb s.lcnt.toNat w, lcnt := s.lcnt + 1#10 }
  else { s with lcnt := 625#10 }

/-- The body of LDCOMMIT (R143): raise unless exactly 624 words were loaded, else make them the generator. -/
def commitLoad (s : State) : State :=
  if s.lcnt = 624#10 then respond .ok 0#32 { installGenerator s.lb s with lcnt := 0#10 }
  else raise .invalidStateLength (zextCount s.lcnt) s

/-- `rst`: the core's registers take their reset values; what the host has still to offer and what it has already received
are the host's (R200, R201; notes/assumptions/3.md). -/
def assertReset (s : State) : State :=
  { State.reset with inputs := s.inputs, responses := s.responses }

end Sys2Proof.Machine
end

