-- ==== Sys2Proof/Machine/Cloner.lean ====
section
/-! DEFINITION. LDBEGIN, LDRAW, LDOBS and LDCOMMIT (spec/44_state_cloner.md). -/

namespace Sys2Proof.Machine

/-- `LDBEGIN` (R140). -/
def execLdbegin (s : State) : Result :=
  .next (unlessFatal (fun s => respond .ok 0#32 { s with lcnt := 0#10 }) s)

/-- `LDRAW w` (R141): the word is stored as given; a word too many is no error here. -/
def execLdraw (w : Word) (s : State) : Result :=
  .next (unlessFatal (fun s => respond .ok 0#32 (appendWord w s)) s)

/-- `LDOBS o` (R142): identical to `LDRAW untemper(o)`. -/
def execLdobs (o : Word) (s : State) : Result :=
  .next (unlessFatal (fun s => respond .ok 0#32 (appendWord (untemper o) s)) s)

/-- `LDCOMMIT` (R143). -/
def execLdcommit (s : State) : Result :=
  .next (unlessFatal commitLoad s)

end Sys2Proof.Machine
end

