-- ==== Sys2Proof/Machine/Generator.lean ====
section
/-! DEFINITION. SEED, SEED16 (spec/40_seed_expander.md), TEMPER, EXTRACT (spec/42_temper_extract.md) and UNTEMPER
(spec/43_untemper.md). -/

namespace Sys2Proof.Machine

/-- `SEED s` (R101). -/
def execSeed (w : Word) (s : State) : Result :=
  .next (unlessFatal (fun s => respond .ok 0#32 (installGenerator (seedExpand w) s)) s)

/-- `SEED16 k` (R102): exactly as SEED with `zext_32(k)`. -/
def execSeed16 (k : BitVec 16) (s : State) : Result :=
  .next (unlessFatal (fun s => respond .ok 0#32 (installGenerator (seedExpand (zextKey k)) s)) s)

/-- `EXTRACT` (R124). -/
def execExtract (s : State) : Result :=
  .next (unlessFatal (answerDraw extract) s)

/-- `TEMPER v` (R121): no state, works unseeded. -/
def execTemper (v : Word) (s : State) : Result :=
  .next (unlessFatal (respond .ok (temper v)) s)

/-- `UNTEMPER v` (R131): no state, works unseeded. -/
def execUntemper (v : Word) (s : State) : Result :=
  .next (unlessFatal (respond .ok (untemper v)) s)

end Sys2Proof.Machine
end

