-- ==== Sys2Proof/Machine/Stream.lean ====
section
/-! DEFINITION. NEXTBYTE, XORB and BYTEITER (spec/45_stream_cipher.md). -/

namespace Sys2Proof.Machine

/-- `NEXTBYTE` (R151). -/
def execNextbyte (s : State) : Result :=
  .next (unlessFatal (answerDraw drawByte) s)

/-- `XORB d` (R152). -/
def execXorb (d : Byte) (s : State) : Result :=
  .next (unlessFatal (answerDraw (drawByteXor d)) s)

/-- `BYTEITER` (R153): drop the held bytes. -/
def execByteiter (s : State) : Result :=
  .next (unlessFatal (fun s => respond .ok 0#32 { s with ksn := 0#3 }) s)

end Sys2Proof.Machine
end

