-- ==== Sys2Proof/Machine/System.lean ====
section
/-! DEFINITION. NOP, RDSTAT and CLRERR (spec/47_system.md). -/

namespace Sys2Proof.Machine

/-- `NOP` (R170). -/
def execNop (s : State) : Result :=
  .next (unlessFatal (respond .ok 0#32) s)

/-- `RDSTAT` (R171): the one command executed with FATAL = 1. -/
def execRdstat (s : State) : Result :=
  .next (respond .ok (statusWord s) s)

/-- `CLRERR` (R172). -/
def execClrerr (s : State) : Result :=
  .next (unlessFatal (fun s => respond .ok 0#32 (clearErrorBits s)) s)

end Sys2Proof.Machine
end

