-- ==== Sys2Proof/Machine/Dispatch.lean ====
section
/-! DEFINITION. One arm per command (spec/30_encoding.md R78). -/

namespace Sys2Proof.Machine

/-- The command's own rule on the state (R75 step 4; the FATAL check of step 2 is in each meaning). -/
def exec (i : Instr) (s : State) : Host.Outcome State Fault Refusal :=
  match i with
  | .nop => Sys2Proof.Machine.execNop s
  | .seed w => Sys2Proof.Machine.execSeed w s
  | .seed16 k => Sys2Proof.Machine.execSeed16 k s
  | .extract => Sys2Proof.Machine.execExtract s
  | .nextbyte => Sys2Proof.Machine.execNextbyte s
  | .xorb d => Sys2Proof.Machine.execXorb d s
  | .byteiter => Sys2Proof.Machine.execByteiter s
  | .temper v => Sys2Proof.Machine.execTemper v s
  | .untemper v => Sys2Proof.Machine.execUntemper v s
  | .ldbegin => Sys2Proof.Machine.execLdbegin s
  | .ldraw w => Sys2Proof.Machine.execLdraw w s
  | .ldobs o => Sys2Proof.Machine.execLdobs o s
  | .ldcommit => Sys2Proof.Machine.execLdcommit s
  | .rdstat => Sys2Proof.Machine.execRdstat s
  | .clrerr => Sys2Proof.Machine.execClrerr s

end Sys2Proof.Machine
end

