-- ==== Sys2Proof/Machine/Accept.lean ====
section
/-! DEFINITION. Accepting what the host does at the ports (spec/30_encoding.md R71, R75; spec/70_reset_and_hazards.md R200,
R201; notes/assumptions/2.md, 3.md). -/

namespace Sys2Proof.Machine

/-- One command word, from acceptance to response (R75). -/
def runCommand (c : Command) (s : State) : Result :=
  match decode c with
  | .ok i => exec i s
  | .error _ => .next (rejectWord s)

/-- One input of the host. With nothing offered the core waits (R200, R208). -/
def serveInput (s : State) : Result :=
  match s.inputs with
  | [] => .next s
  | .command c :: rest => runCommand c { s with inputs := rest }
  | .reset :: rest => .next (assertReset { s with inputs := rest })
  | .commandThenReset _ :: rest => .next (assertReset { s with inputs := rest })

/-- The host's next input is this command word; what it had still to offer comes after it. -/
def offerFirst (c : Command) (s : State) : State := { s with inputs := .command c :: s.inputs }

end Sys2Proof.Machine
end

