-- ==== Sys2Proof/Machine/Step.lean ====
section
/-! DEFINITION. The step of one core: one command from acceptance to response, or one reset
(spec/00_scope.md R11, spec/30_encoding.md R75). -/

namespace Sys2Proof.Machine

/-- One step (R11, R75, R200). -/
def step (s : State) : Host.Outcome State Fault Refusal := Sys2Proof.Machine.serveInput s

/-- `s` with the command word of `w`'s low `nbits` bits as the host's next input, so that the very next step runs it
(notes/assumptions/2.md). -/
def State.withFetchWord (s : State) (nbits w : Nat) : State :=
  Sys2Proof.Machine.offerFirst (BitVec.ofNat 40 (w % 2 ^ nbits)) s

end Sys2Proof.Machine
end

