-- ==== Sys2Proof/Laws/Encoding.lean ====
section
/-! SUPPORT. The fields of a command word, and that every Instr respects its format. -/

namespace Sys2Proof

@[simp] theorem opField_commandWord (op : Opcode) (arg : Word) : opField (commandWord op arg) = opcodeNumber op := by
  unfold opField commandWord
  rw [BitVec.extractLsb'_append_eq_of_le (by decide)]
  simp

@[simp] theorem argField_commandWord (op : Opcode) (arg : Word) : argField (commandWord op arg) = arg := by
  unfold argField commandWord
  rw [BitVec.extractLsb'_append_eq_of_add_le (by decide)]
  simp

/-- The two fields make up the whole word. -/
theorem fields_append (c : Command) : (opField c ++ argField c : Command) = c := by
  apply BitVec.eq_of_getLsbD_eq
  intro i hi
  simp only [opField, argField, BitVec.getLsbD_append, BitVec.getLsbD_extractLsb']
  by_cases h : i < 32
  · simp [h]
  · have : i - 32 < 8 := by omega
    simp [h, this, Nat.add_sub_cancel' (Nat.le_of_not_lt h)]

@[simp] theorem opcodeOfNumber_opcodeNumber (op : Opcode) : opcodeOfNumber (opcodeNumber op) = some op := by
  cases op <;> rfl

/-- A number that stands for an opcode is that opcode's number. -/
theorem opcodeNumber_of_opcodeOfNumber {n : Byte} {op : Opcode} (h : opcodeOfNumber n = some op) : opcodeNumber op = n := by
  unfold opcodeOfNumber at h
  apply BitVec.eq_of_toNat_eq
  split at h <;> first
    | (injection h with h; subst h; simp_all [opcodeNumber])
    | cases h

@[simp] theorem opcodeOf_instrOf (op : Opcode) (arg : Word) : Machine.opcodeOf (Machine.instrOf op arg) = op := by
  cases op <;> rfl

end Sys2Proof
end

