-- ==== Sys2Proof/Laws/PerInstr.lean ====
section
/-! SUPPORT. Family EncodedFields: what the word of a command holds in its two fields, and that its argument respects its
opcode's format (spec/30_encoding.md R72). One lemma per constructor of Instr. -/

namespace Sys2Proof.Laws.EncodedFields

/-- OP is the opcode's number, ARG the operand zero-extended, and no must-be-zero bit of ARG is set. -/
def Statement (i : Instr) : Prop :=
  opField (encode i) = opcodeNumber (Machine.opcodeOf i) ∧ argField (encode i) = Machine.argOf i ∧ i.wellFormed = true

/-- A 16-bit key zero-extended has no bit in the half that format `H` requires to be zero. -/
theorem key_respects_format (k : BitVec 16) : Machine.fits .h (Machine.zextKey k) = true := by
  have h : Machine.zextKey k &&& 0xFFFF0000#32 = 0 := by
    apply BitVec.eq_of_getLsbD_eq
    intro i hi
    simp only [Machine.zextKey, BitVec.getLsbD_and, BitVec.getLsbD_setWidth]
    by_cases hk : i < 16
    · have : (0xFFFF0000#32).getLsbD i = false := by interval_cases i <;> rfl
      simp [this]
    · simp [BitVec.getLsbD_of_ge k i (by omega)]
  simpa [Machine.fits, Machine.mustBeZero] using h

/-- A byte zero-extended has no bit where format `B` requires zeros. -/
theorem byte_respects_format (d : Byte) : Machine.fits .b (Machine.zextByte d) = true := by
  have h : Machine.zextByte d &&& 0xFFFFFF00#32 = 0 := by
    apply BitVec.eq_of_getLsbD_eq
    intro i hi
    simp only [Machine.zextByte, BitVec.getLsbD_and, BitVec.getLsbD_setWidth]
    by_cases hk : i < 8
    · have : (0xFFFFFF00#32).getLsbD i = false := by interval_cases i <;> rfl
      simp [this]
    · simp [BitVec.getLsbD_of_ge d i (by omega)]
  simpa [Machine.fits, Machine.mustBeZero] using h

/-- A word operand has no must-be-zero bit. -/
theorem word_respects_format (w : Word) : Machine.fits .w w = true := by
  simp [Machine.fits, Machine.mustBeZero]

theorem of_wellFormed {i : Instr} (h : i.wellFormed = true) : Statement i := by
  simp [Statement, encode, h]

theorem nop : Statement .nop := of_wellFormed rfl
theorem seed (s : Word) : Statement (.seed s) := of_wellFormed (word_respects_format s)
theorem seed16 (k : BitVec 16) : Statement (.seed16 k) := of_wellFormed (key_respects_format k)
theorem extract : Statement .extract := of_wellFormed rfl
theorem nextbyte : Statement .nextbyte := of_wellFormed rfl
theorem xorb (d : Byte) : Statement (.xorb d) := of_wellFormed (byte_respects_format d)
theorem byteiter : Statement .byteiter := of_wellFormed rfl
theorem temper (v : Word) : Statement (.temper v) := of_wellFormed (word_respects_format v)
theorem untemper (v : Word) : Statement (.untemper v) := of_wellFormed (word_respects_format v)
theorem ldbegin : Statement .ldbegin := of_wellFormed rfl
theorem ldraw (w : Word) : Statement (.ldraw w) := of_wellFormed (word_respects_format w)
theorem ldobs (o : Word) : Statement (.ldobs o) := of_wellFormed (word_respects_format o)
theorem ldcommit : Statement .ldcommit := of_wellFormed rfl
theorem rdstat : Statement .rdstat := of_wellFormed rfl
theorem clrerr : Statement .clrerr := of_wellFormed rfl

end Sys2Proof.Laws.EncodedFields
end

