-- ==== Sys2Proof/Machine/HostProc.lean ====
section
/-! DEFINITION. What the host does with the command set: pseudo-instructions (spec/30_encoding.md R83), messages
(spec/45_stream_cipher.md R155), SeedSearch (spec/46_seed_search.md R161 to R164), several cores (spec/60_exceptions.md R193).
None of it is hardware: every state change goes through the core's own commands (spec/00_scope.md R5). -/

namespace Sys2Proof.Machine

/-- Issue one command and take its response: the last one delivered. -/
def send (i : Instr) (s : State) : Option (Response × State) :=
  match exec i s with
  | .next t => t.responses.getLast?.map fun r => (r, t)
  | .fault _ => none
  | .refused _ => none

/-- Issue commands in order; stop at the first response whose ST is not OK and report that response (R83). -/
def sendAll : List Instr → State → Option (List Response × State)
  | [], s => some ([], s)
  | i :: is, s =>
    match send i s with
    | none => none
    | some (r, t) =>
      if r.status = .ok then
        match sendAll is t with
        | none => none
        | some (rs, u) => some (r :: rs, u)
      else some ([r], t)

/-- `DATA[7:0]` of a response (R73). -/
def responseByte (r : Response) : Byte := byteOperand r.data

/-- `trunc_32(t)` of a count of seconds (R104, R83 SEEDT). -/
def seedOfTime (t : Nat) : Word := BitVec.ofNat 32 t

/-- The pseudo-instructions of R83. -/
inductive Pseudo where
  | seed32 (k : Word)
  | seedT (t : Nat)
  | keystream (n : Nat)
  | encrypt (s : Word) (data : List Byte)
  | encrypt16 (k : BitVec 16) (data : List Byte)
  | encryptT (t : Nat) (data : List Byte)
  | decrypt (s : Word) (data : List Byte)
  | decrypt16 (k : BitVec 16) (data : List Byte)
  | decryptT (t : Nat) (data : List Byte)
  | fromState (ws : List Word)
  | clone (os : List Word)
  deriving DecidableEq, Repr

/-- The commands a pseudo-instruction expands to (R83). -/
def expand : Pseudo → List Instr
  | .seed32 k => [.seed k]
  | .seedT t => [.seed (seedOfTime t)]
  | .keystream n => List.replicate n .nextbyte
  | .encrypt s data => .seed s :: data.map .xorb
  | .encrypt16 k data => .seed16 k :: data.map .xorb
  | .encryptT t data => .seed (seedOfTime t) :: data.map .xorb
  | .decrypt s data => .seed s :: data.map .xorb
  | .decrypt16 k data => .seed16 k :: data.map .xorb
  | .decryptT t data => .seed (seedOfTime t) :: data.map .xorb
  | .fromState ws => .ldbegin :: ws.map .ldraw ++ [.ldcommit]
  | .clone os => .ldbegin :: os.map .ldobs ++ [.ldcommit]

/-- Run a pseudo-instruction (R83). -/
def runPseudo (p : Pseudo) (s : State) : Option (List Response × State) := sendAll (expand p) s

/-- What a sequence sent gives back: its responses, or the response that was not OK, if one was, which is what the host
reports (R83). -/
def reported (rs : List Response) : Except Response (List Response) :=
  match rs.find? (fun r => r.status ≠ .ok) with
  | some r => .error r
  | none => .ok rs

/-- The data bytes of what a sequence sent gives back. -/
def replyBytes (rs : List Response) : Except Response (List Byte) := (reported rs).map (List.map responseByte)

/-- `encrypt(data, seed)` of R155, and `decrypt`, the identical function (R156): seed by the given command, then one XORB a
byte; the result is the response bytes after the seeding's own response. Where a command is refused (FATAL = 1) the host
reports that response (R83); that no bytes go with it, so that it is told apart from the empty ciphertext of an empty message,
is a DESIGN CHOICE (notes/assumptions/6.md). -/
def encryptWith (seeding : Instr) (data : List Byte) (s : State) : Option (Except Response (List Byte) × State) :=
  match sendAll (seeding :: data.map .xorb) s with
  | none => none
  | some (rs, t) => some ((replyBytes rs).map List.tail, t)

/-- The host's capture of R145: the next `n` words of the output stream, the data of the responses to `n` EXTRACT. Where the
source core refuses one (VALID = 0 or FATAL = 1) the spec is silent: DESIGN CHOICE, the capture stops there and gives that
response and no words, so that a refused DATA of 0 is never taken for an output (notes/assumptions/6.md). -/
def drawWords (n : Nat) (s : State) : Option (Except Response (List Word) × State) :=
  match sendAll (List.replicate n .extract) s with
  | none => none
  | some (rs, t) => some ((reported rs).map (List.map Response.data), t)

/-- What a SeedSearch reports. "No seed found in range" is "a valid, expected outcome, explicitly distinguished from
implementation failure" (R163): a core that refuses a command of the search is the third outcome, with its response. -/
inductive SearchResult where
  /-- the candidate that passed -/
  | found (k : Nat)
  /-- every candidate was tested and none passed -/
  | notFound
  /-- the core answered a command of the search with a status other than OK -/
  | failed (r : Response)
  deriving DecidableEq, Repr

/-- What the test of one candidate says. -/
inductive TestResult where
  | passed
  | mismatch
  /-- the core answered a command of the test with a status other than OK -/
  | failed (r : Response)
  deriving DecidableEq, Repr

/-- The inner loop of R161: XORB each ciphertext byte and stop at the first that is not the plaintext byte. The pairs are
(ciphertext, plaintext). A response that is not OK ends the test as failed: DESIGN CHOICE (notes/assumptions/6.md). -/
def matchesPlaintext : List (Byte × Byte) → State → Option (TestResult × State)
  | [], s => some (.passed, s)
  | (c, p) :: rest, s =>
    match send (.xorb c) s with
    | none => none
    | some (r, t) =>
      if r.status = .ok then
        if responseByte r = p then matchesPlaintext rest t else some (.mismatch, t)
      else some (.failed r, t)

/-- The test of R162: decrypt every byte; the last `m` must be the marker of `m` bytes. A response that is not OK ends the
test as failed: DESIGN CHOICE (notes/assumptions/6.md). -/
def endsWithMarker (cipher marker : List Byte) (s : State) : Option (TestResult × State) :=
  match sendAll (cipher.map .xorb) s with
  | none => none
  | some (rs, t) =>
    match replyBytes rs with
    | .error r => some (.failed r, t)
    | .ok bytes => some (if bytes.drop (cipher.length - marker.length) = marker then .passed else .mismatch, t)

/-- The candidate loop of R161 and R162: `n` candidates from `k` upwards; the first that passes wins. A seeding or a test that
the core refuses ends the search as failed, told apart from NotFound (R163); that the search stops there is a DESIGN CHOICE
(notes/assumptions/6.md). -/
def searchFrom (seeding : Nat → Instr) (test : State → Option (TestResult × State)) :
    Nat → Nat → State → Option (SearchResult × State)
  | 0, _, s => some (.notFound, s)
  | n + 1, k, s =>
    match send (seeding k) s with
    | none => none
    | some (r, t) =>
      if r.status = .ok then
        match test t with
        | none => none
        | some (.passed, u) => some (.found k, u)
        | some (.mismatch, u) => searchFrom seeding test n (k + 1) u
        | some (.failed r', u) => some (.failed r', u)
      else some (.failed r, t)

/-- The seeding of candidate `k` of the 16-bit search (R161). -/
def seedKey (k : Nat) : Instr := .seed16 (BitVec.ofNat 16 k)

/-- The seeding of second `t` of the windowed search (R162). -/
def seedSecond (t : Nat) : Instr := .seed (seedOfTime t)

/-- SeedSearch over the 16-bit keys 0 .. 65535 (R161). -/
def seedSearch16 (plain cipher : List Byte) (s : State) : Option (SearchResult × State) :=
  searchFrom seedKey (matchesPlaintext (cipher.zip plain)) 65536 0 s

/-- SeedSearch over the seconds `lo .. hi`, both ends included (R162). -/
def seedSearchWindow (lo hi : Nat) (cipher marker : List Byte) (s : State) : Option (SearchResult × State) :=
  searchFrom seedSecond (endsWithMarker cipher marker) (hi + 1 - lo) lo s

/-- What the host reports of the results of several cores, listed by rising candidates: the lowest candidate found, "lowest
candidate value wins" (R164). DESIGN CHOICE: a failure counts where no core with lower candidates has found one
(notes/assumptions/6.md). -/
def lowestFound : List SearchResult → SearchResult
  | [] => .notFound
  | .notFound :: rs => lowestFound rs
  | .failed r :: _ => .failed r
  | .found k :: rs =>
    match lowestFound rs with
    | .notFound => .found k
    | .failed _ => .found k
    | .found j => .found (min k j)

/-- Each core in turn searches its own block of at most `size` candidates, out of `left` candidates from `start` upwards
(R164). -/
def searchBlocks (seeding : Nat → Instr) (test : State → Option (TestResult × State)) (size : Nat) :
    Nat → Nat → List State → Option (List (SearchResult × State))
  | _, _, [] => some []
  | left, start, s :: ss =>
    match searchFrom seeding test (min size left) start s with
    | none => none
    | some r =>
      match searchBlocks seeding test size (left - size) (start + size) ss with
      | none => none
      | some rs => some (r :: rs)

/-- A search of `n` candidates from `start` upwards spread over one or more cores: every candidate belongs to exactly one
core's block, and the host reports the lowest match, not the first to finish (R164). DESIGN CHOICE: the blocks, of `n`
divided by the number of cores, rounded up, and that with no core there is no search (notes/assumptions/6.md). -/
def searchSpread (seeding : Nat → Instr) (test : State → Option (TestResult × State)) (n start : Nat)
    (cores : List State) : Option (SearchResult × List State) :=
  if cores = [] then none
  else
    match searchBlocks seeding test ((n + cores.length - 1) / cores.length) n start cores with
    | none => none
    | some rs => some (lowestFound (rs.map Prod.fst), rs.map Prod.snd)

/-- The 16-bit SeedSearch over several cores (R161, R164). -/
def seedSearch16Parallel (plain cipher : List Byte) (cores : List State) : Option (SearchResult × List State) :=
  searchSpread seedKey (matchesPlaintext (cipher.zip plain)) 65536 0 cores

/-- The windowed SeedSearch over several cores (R162, R164). -/
def seedSearchWindowParallel (lo hi : Nat) (cipher marker : List Byte) (cores : List State) :
    Option (SearchResult × List State) :=
  searchSpread seedSecond (endsWithMarker cipher marker) (hi + 1 - lo) lo cores

/-- A command to instance `k` of several cores (R34, R193): the port picks the instance; none if there is no such port. -/
def commandAt (k : Nat) (c : Command) (cores : List State) : Option (List State) :=
  match cores[k]? with
  | none => none
  | some s =>
    match runCommand c s with
    | .next t => some (cores.set k t)
    | .fault _ => none
    | .refused _ => none

end Sys2Proof.Machine
end

