-- ==== Sys2Proof/Machine/Ports.lean ====
section
/-! DEFINITION. The core clock cycle by clock cycle at its pins (spec/30_encoding.md R70, R71; spec/70_reset_and_hazards.md
R200, R201). A layer above the step: the command in flight runs as one transaction (`runCommand`) when its latency is over.
notes/assumptions/4.md. -/

namespace Sys2Proof.Machine

/-- The input pins in one clock cycle (R70). -/
structure PinsIn where
  rst      : Bool
  cmdValid : Bool
  cmd      : Command
  rspReady : Bool
  deriving DecidableEq, Repr

/-- The output pins in one clock cycle (R70). `rsp` is meaningful while `rspValid` is set. -/
structure PinsOut where
  cmdReady : Bool
  rspValid : Bool
  rsp      : ResponseWord
  deriving DecidableEq, Repr

/-- Where the handshake stands: at most one command is in flight (R71). -/
inductive Phase where
  /-- no command in flight -/
  | idle
  /-- a command was accepted; this many cycles pass before its response is offered -/
  | executing (c : Command) (left : Nat)
  /-- the response is offered and not yet delivered -/
  | answering (r : ResponseWord)
  deriving DecidableEq, Repr

/-- The core with its handshake. `core` is kept with empty ports: the pins are the ports here. -/
structure ClockedCore where
  core      : State
  phase     : Phase
  /-- how many commands were accepted (the model's own: it indexes the free latency) -/
  accepted  : Nat
  /-- the responses delivered, oldest first -/
  delivered : List ResponseWord
  deriving DecidableEq, Repr

/-- The output pins (R70, R71): ready when no command is in flight, `rsp_valid` while a response is offered, neither while
`rst = 1` (R200). What `rsp` carries while `rsp_valid = 0` the spec leaves open (R71, U13): DESIGN CHOICE, it reads 0 in every
such cycle, also in a cycle with `rst = 1` that abandons a response on offer. That an idle core out of reset is ready is
DEDUCED. notes/assumptions/4.md. -/
def outputPins (k : ClockedCore) (p : PinsIn) : PinsOut :=
  match k.phase with
  | .idle => ⟨!p.rst, false, 0⟩
  | .executing _ _ => ⟨false, false, 0⟩
  | .answering r => if p.rst then ⟨false, false, 0⟩ else ⟨false, true, r⟩

/-- Run the command in flight as one transaction and offer its response (R75). -/
def performCommand (c : Command) (k : ClockedCore) : ClockedCore :=
  match runCommand c { k.core with inputs := [], responses := [] } with
  | .next t =>
    match t.responses with
    | r :: _ => { k with core := { t with responses := [] }, phase := .answering (responseWord r) }
    | [] => k
  | .fault _ => k
  | .refused _ => k

/-- Wait the given number of further cycles, then perform. -/
def waitOrPerform (c : Command) (left : Nat) (k : ClockedCore) : ClockedCore :=
  match left with
  | 0 => performCommand c k
  | n + 1 => { k with phase := .executing c n }

/-- A rising edge of `clk` (R70, R71, R200, R201). With `rst = 1` a command in flight, or a response not yet delivered, is
abandoned. The registers take the values of `State.reset`, the free words of notes/assumptions/1.md among them. DESIGN CHOICE:
the latency sequence does not restart at reset, so `accepted`, the model's own count of accepted commands, keeps its value
(the spec leaves LATENCY open, R10, D18: notes/assumptions/4.md); `delivered` is what the host has already received and stays
(notes/assumptions/3.md). -/
def clockEdge (p : PinsIn) (k : ClockedCore) : ClockedCore :=
  if p.rst then { k with core := State.reset, phase := .idle }
  else
    match k.phase with
    | .idle =>
      if p.cmdValid then
        waitOrPerform p.cmd (Config.extraCycles k.accepted) { k with accepted := k.accepted + 1 }
      else k
    | .executing c n => waitOrPerform c n k
    | .answering r =>
      if p.rspReady then { k with phase := .idle, delivered := k.delivered ++ [r] } else k

/-- The edges of a list of cycles, in order. -/
def clockEdges (ps : List PinsIn) (k : ClockedCore) : ClockedCore :=
  ps.foldl (fun k p => clockEdge p k) k

/-- The core after a reset edge, nothing delivered yet (R200). -/
def ClockedCore.reset : ClockedCore where
  core := State.reset
  phase := .idle
  accepted := 0
  delivered := []

end Sys2Proof.Machine
end

