-- ==== Sys2Proof/Safety.lean ====
section
/-! DEFINITION. What statements about the core are said in: the invariant of spec/10_state.md R35, agreement of two cores up to
words that no rule reads (R33), and the raw-word sequence of spec/41_twist_engine.md R114. -/

namespace Sys2Proof

open Sys2Proof.Machine

/-- The invariants of R35 that the state's types leave open: `1 <= IDX <= 624`, `KSN <= 4`, `LCNT <= 625`, `KSN > 0` implies
VALID, `FATAL = 0` (R24, R29, R30). -/
structure CoreInv (s : State) : Prop where
  idx_pos   : 1 ≤ s.idx.toNat
  idx_le    : s.idx.toNat ≤ 624
  ksn_le    : s.ksn.toNat ≤ 4
  lcnt_le   : s.lcnt.toNat ≤ 625
  ksn_valid : s.ksn ≠ 0#3 → s.valid = true
  no_fatal  : s.fatal = false

/-- Two cores agree but for words that R33 says no rule reads: MT while VALID = 0, KSW while KSN = 0, LB from LCNT on. Their
scalar registers, flags and ports are equal. -/
structure AgreeOnReadable (s t : State) : Prop where
  idx       : s.idx = t.idx
  valid     : s.valid = t.valid
  ksn       : s.ksn = t.ksn
  lcnt      : s.lcnt = t.lcnt
  eLen      : s.eLen = t.eLen
  eUns      : s.eUns = t.eUns
  eIll      : s.eIll = t.eIll
  fatal     : s.fatal = t.fatal
  inputs    : s.inputs = t.inputs
  responses : s.responses = t.responses
  mt        : s.valid = true → s.mt = t.mt
  ksw       : s.ksn ≠ 0#3 → s.ksw = t.ksw
  lb        : ∀ i, i < 624 → i < s.lcnt.toNat → wordAt s.lb i = wordAt t.lb i

/-- Two states are the same core, whatever stands at their ports. -/
def SameCore (s t : State) : Prop :=
  { s with inputs := [], responses := [] } = { t with inputs := [], responses := [] }

/-- `x_k` of R114 for two successive generations: the words before a twist, then those after it. -/
def rawWord (mt : Words) (k : Nat) : Word :=
  if k < 624 then wordAt mt k else wordAt (twist mt) (k - 624)

/-- `g` of R114. -/
def g (x : Word) : Word := (x >>> 1) ^^^ (if x.getLsbD 0 then 0x9908B0DF#32 else 0#32)

/-- Output word `k` of a stream: the word that the EXTRACT after `k` others answers; none where one is not answered OK. -/
def outputWord (k : Nat) (s : State) : Option Word :=
  match sendAll (List.replicate (k + 1) .extract) s with
  | none => none
  | some (rs, _) =>
    match rs[k]? with
    | none => none
    | some r => if r.status = .ok then some r.data else none

end Sys2Proof
end

