-- ==== Sys2Proof/Certificates/Slice0/Obligations.lean ====
section
/-! DEFINITION. The statements about the core, family by family. Rule numbers are those of spec/. -/

open Sys2Proof Sys2Proof.Machine

/-! ### The command words and the step -/

/-- R72, R78: encoding a well-formed command and decoding the word gives the command back, at every operand. -/
def Obligations.DecodeOfEncode : Prop :=
  ∀ i : Instr, i.wellFormed = true → decode (encode i) = .ok i

/-- R72, R78, R79: a word that decodes is the word of the command it decodes to, so each command has one word. -/
def Obligations.EncodeOfDecode : Prop :=
  ∀ (c : Command) (i : Instr), decode c = .ok i → encode i = c

/-- R78: a word selects a row of the printed opcode map (word AND mask = match) exactly when it decodes to that row's opcode,
and no word selects two rows. -/
def Obligations.OpcodeMapDecidesDecoding : Prop :=
  (∀ (c : Command) (r : OpRow), r ∈ opcodeMap →
    (selects c r = true ↔ ∃ i, decode c = .ok i ∧ opcodeOf i = r.opcode)) ∧
  (∀ (c : Command) (r r' : OpRow), r ∈ opcodeMap → r' ∈ opcodeMap → selects c r = true → selects c r' = true → r = r')

/-- R82, R72: what the assembler emits decodes to a command of the line's mnemonic; a line whose operand fits the format of
its mnemonic assembles to {OP, operand zero-extended to 32 bits}, or {OP, 0} for format Z, which has no operand; an operand that
is given and does not fit is rejected. The last clause is the model's choice, where R82 is silent (notes/assumptions/8.md): a
mnemonic of format W, H or B with no operand is rejected. -/
def Obligations.AssemblerEmitsOnlyLegalWords : Prop :=
  (∀ (l : AsmLine) (c : Command), assemble l = some c → ∃ i, decode c = .ok i ∧ mnemonicOf (opcodeOf i) = l.mnemonic) ∧
  (∀ op : Opcode, formatOf op = .z →
    assemble ⟨mnemonicOf op, none⟩ = some (opcodeNumber op ++ 0#32) ∧ ∀ n, assemble ⟨mnemonicOf op, some n⟩ = none) ∧
  (∀ (op : Opcode) (n : Nat), formatOf op = .w →
    (n < 2 ^ 32 → assemble ⟨mnemonicOf op, some n⟩ = some (opcodeNumber op ++ BitVec.ofNat 32 n)) ∧
    (2 ^ 32 ≤ n → assemble ⟨mnemonicOf op, some n⟩ = none)) ∧
  (∀ (op : Opcode) (n : Nat), formatOf op = .h →
    (n < 2 ^ 16 → assemble ⟨mnemonicOf op, some n⟩ = some (opcodeNumber op ++ BitVec.ofNat 32 n)) ∧
    (2 ^ 16 ≤ n → assemble ⟨mnemonicOf op, some n⟩ = none)) ∧
  (∀ (op : Opcode) (n : Nat), formatOf op = .b →
    (n < 2 ^ 8 → assemble ⟨mnemonicOf op, some n⟩ = some (opcodeNumber op ++ BitVec.ofNat 32 n)) ∧
    (2 ^ 8 ≤ n → assemble ⟨mnemonicOf op, some n⟩ = none)) ∧
  (∀ op : Opcode, formatOf op ≠ .z → assemble ⟨mnemonicOf op, none⟩ = none)

/-- R78: words written out from the encodings of one command of each family decode to it (a sanity statement). -/
def Obligations.SampleWordsDecode : Prop :=
  decode 0x0000000000 = .ok .nop ∧
  decode 0x010000002A = .ok (.seed 42) ∧
  decode 0x020000BEEF = .ok (.seed16 0xBEEF) ∧
  decode 0x0300000000 = .ok .extract ∧
  decode 0x05000000FF = .ok (.xorb 0xFF) ∧
  decode 0x092B7E4A2D = .ok (.untemper 0x2B7E4A2D) ∧
  decode 0x125FE1DC66 = .ok (.ldobs 0x5FE1DC66) ∧
  decode 0x2000000000 = .ok .rdstat

/-- R75: when the host's next input is a word that decodes to a command, the step takes it from the port and runs the
command; nothing else is added around it. -/
def Obligations.StepRunsTheDecodedCommand : Prop :=
  ∀ (s : State) (c : Command) (rest : List HostInput) (i : Instr),
    s.inputs = .command c :: rest → decode c = .ok i → step s = exec i { s with inputs := rest }

/-- R75, R71: the step is total: for every state and each of the 2^40 command words there is a next state, which has taken
that one input and delivered exactly one response. -/
def Obligations.EveryCommandIsAnsweredOnce : Prop :=
  ∀ (s : State) (c : Command) (rest : List HostInput), s.inputs = .command c :: rest →
    ∃ (t : State) (r : Response), step s = .next t ∧ t.inputs = rest ∧ t.responses = s.responses ++ [r]

/-- R182: a word that is no command answers ERR_ILLEGAL_COMMAND with DATA 0 and sets E_ILL; nothing else changes. -/
def Obligations.IllegalWordSetsEIll : Prop :=
  ∀ (s : State) (c : Command) (rest : List HostInput) (e : DecodeError),
    s.inputs = .command c :: rest → decode c = .error e → s.fatal = false →
    step s = .next { s with inputs := rest, eIll := true, responses := s.responses ++ [⟨.errIllegalCommand, 0#32⟩] }

/-- R75 step 2: with FATAL = 1 every word but a well-formed RDSTAT answers ERR_FATAL with DATA 0 and changes nothing; RDSTAT
answers OK with STATUS. -/
def Obligations.FatalRefusesAllButRdstat : Prop :=
  ∀ (s : State) (c : Command) (rest : List HostInput), s.inputs = .command c :: rest → s.fatal = true →
    (c ≠ 0x2000000000#40 →
      step s = .next { s with inputs := rest, responses := s.responses ++ [⟨.errFatal, 0#32⟩] }) ∧
    (c = 0x2000000000#40 →
      step s = .next { s with inputs := rest, responses := s.responses ++ [⟨.ok, statusWord s⟩] })

/-- The model's own choice (notes/assumptions/2.md): with nothing offered at the command port the core waits. -/
def Obligations.NoInputChangesNothing : Prop :=
  ∀ s : State, s.inputs = [] → step s = .next s

/-! ### Reset -/

/-- R32: the values the spec gives for reset. -/
def Obligations.ResetLeavesTheStatedValues : Prop :=
  State.reset.idx = 624#10 ∧ State.reset.valid = false ∧ State.reset.ksn = 0#3 ∧ State.reset.lcnt = 0#10 ∧
  State.reset.eLen = false ∧ State.reset.eUns = false ∧ State.reset.eIll = false ∧ State.reset.fatal = false

/-- R200, R201: asserting `rst`, with or without a command in flight, gives every register the value it has in
`State.reset` and delivers no response. The spec gives IDX, VALID, KSN, LCNT and the flags their reset values; that MT, LB and
KSW take the fixed, free words of `State.reset` at every reset is the model's choice (notes/assumptions/1.md: R32 leaves them
unspecified), and so is that the inputs still to come and the responses already delivered stay (notes/assumptions/3.md). -/
def Obligations.ResetAbandonsTheCommandInFlight : Prop :=
  ∀ (s : State) (x : HostInput) (rest : List HostInput), s.inputs = x :: rest →
    (x = .reset ∨ ∃ c, x = .commandThenReset c) →
    ∃ t, step s = .next t ∧ SameCore t State.reset ∧ t.inputs = rest ∧ t.responses = s.responses

/-! ### SeedExpander: SEED, SEED16 -/

/-- R100: word 0 is the seed; word i comes from word i - 1 by the recurrence, for i = 1 .. 623. -/
def Obligations.SeedExpandFollowsTheRecurrence : Prop :=
  ∀ s : Word, wordAt (seedExpand s) 0 = s ∧
    ∀ i, 1 ≤ i → i < 624 →
      wordAt (seedExpand s) i =
        0x6c078965#32 * (wordAt (seedExpand s) (i - 1) ^^^ (wordAt (seedExpand s) (i - 1) >>> 30)) + BitVec.ofNat 32 i

/-- R101: SEED. -/
def Obligations.SeedMakesAFreshGenerator : Prop :=
  ∀ (w : Word) (s : State),
    encode (.seed w) = 0x01#8 ++ w ∧
    (s.fatal = false →
      exec (.seed w) s = .next { s with
        mt := seedExpand w, idx := 624#10, ksn := 0#3, valid := true, responses := s.responses ++ [⟨.ok, 0#32⟩] }) ∧
    (s.fatal = true → exec (.seed w) s = .next { s with responses := s.responses ++ [⟨.errFatal, 0#32⟩] })

/-- R102: SEED16 is SEED of the key with 16 zero bits above it. -/
def Obligations.Seed16IsSeedOfTheZeroExtendedKey : Prop :=
  ∀ (k : BitVec 16) (s : State),
    encode (.seed16 k) = 0x02#8 ++ 0#16 ++ k ∧
    exec (.seed16 k) s = exec (.seed (0#16 ++ k)) s ∧
    (s.fatal = false →
      exec (.seed16 k) s = .next { s with
        mt := seedExpand (0#16 ++ k), idx := 624#10, ksn := 0#3, valid := true,
        responses := s.responses ++ [⟨.ok, 0#32⟩] })

/-- R101, R102: the frame of SEED and SEED16. -/
def Obligations.SeedFrame : Prop :=
  ∀ (i : Instr) (s t : State), ((∃ w, i = .seed w) ∨ ∃ k, i = .seed16 k) → exec i s = .next t →
    t.ksw = s.ksw ∧ t.lb = s.lb ∧ t.lcnt = s.lcnt ∧ t.eLen = s.eLen ∧ t.eUns = s.eUns ∧ t.eIll = s.eIll ∧
    t.fatal = s.fatal ∧ t.inputs = s.inputs

/-! ### TwistEngine -/

/-- R110, R111: which words of the twist read old and which read new values. -/
def Obligations.TwistReadsOldAndNewWords : Prop :=
  ∀ mt : Words,
    (∀ i, i ≤ 226 → wordAt (twist mt) i = wordAt mt (i + 397) ^^^
      g ((wordAt mt i &&& 0x80000000#32) + (wordAt mt (i + 1) &&& 0x7FFFFFFF#32))) ∧
    (∀ i, 227 ≤ i → i ≤ 622 → wordAt (twist mt) i = wordAt (twist mt) (i - 227) ^^^
      g ((wordAt mt i &&& 0x80000000#32) + (wordAt mt (i + 1) &&& 0x7FFFFFFF#32))) ∧
    wordAt (twist mt) 623 = wordAt (twist mt) 396 ^^^
      g ((wordAt mt 623 &&& 0x80000000#32) + (wordAt (twist mt) 0 &&& 0x7FFFFFFF#32))

/-- R114: over two successive generations the raw words follow one sliding recurrence of order 624. -/
def Obligations.RawWordsFollowOneRecurrence : Prop :=
  ∀ (mt : Words) (k : Nat), k < 624 →
    rawWord mt (k + 624) =
      rawWord mt (k + 397) ^^^ g ((rawWord mt k &&& 0x80000000#32) + (rawWord mt (k + 1) &&& 0x7FFFFFFF#32))

/-- R114: the low 31 bits of word 0 are dead: two arrays that differ only there twist to the same array. -/
def Obligations.LowBitsOfWordZeroAreDead : Prop :=
  ∀ (a b : Words), (∀ i, 1 ≤ i → i < 624 → wordAt a i = wordAt b i) →
    (wordAt a 0).getLsbD 31 = (wordAt b 0).getLsbD 31 → twist a = twist b

/-! ### TemperTransform and UntemperTransform: TEMPER, UNTEMPER -/

/-- R122: `temper` is linear over GF(2). -/
def Obligations.TemperIsLinear : Prop :=
  temper 0 = 0 ∧ ∀ a b : Word, temper (a ^^^ b) = temper a ^^^ temper b

/-- R130: `untemper` undoes `temper` on every word, and the other way round. -/
def Obligations.UntemperAndTemperAreInverse : Prop :=
  (∀ v : Word, untemper (temper v) = v) ∧ ∀ z : Word, temper (untemper z) = z

/-- R133: the bit recurrences of R132 equal the collapsed whole-word form. -/
def Obligations.UntemperEqualsItsWholeWordForm : Prop :=
  ∀ z : Word,
    let y3 := z ^^^ (z >>> 18)
    let y2 := y3 ^^^ ((y3 <<< 15) &&& 0xEFC60000#32)
    let window := fun t : Word => y2 ^^^ ((t <<< 7) &&& 0x9D2C5680#32)
    let y1 := window (window (window (window y2)))
    untemper z = y1 ^^^ (y1 >>> 11) ^^^ (y1 >>> 22)

/-- R120, R121: TEMPER answers the four steps, applied in order; it needs no seeding and changes no register. -/
def Obligations.TemperAnswersTheFourSteps : Prop :=
  ∀ (v : Word) (s : State),
    let y1 := v ^^^ ((v >>> 11) &&& 0xFFFFFFFF#32)
    let y2 := y1 ^^^ ((y1 <<< 7) &&& 0x9D2C5680#32)
    let y3 := y2 ^^^ ((y2 <<< 15) &&& 0xEFC60000#32)
    encode (.temper v) = 0x08#8 ++ v ∧
    (s.fatal = false →
      exec (.temper v) s = .next { s with responses := s.responses ++ [⟨.ok, y3 ^^^ (y3 >>> 18)⟩] }) ∧
    (s.fatal = true → exec (.temper v) s = .next { s with responses := s.responses ++ [⟨.errFatal, 0#32⟩] })

/-- R131, R130: UNTEMPER answers the word whose temper is the operand; it needs no seeding and changes no register. -/
def Obligations.UntemperAnswersTheRawWord : Prop :=
  ∀ (v : Word) (s : State),
    encode (.untemper v) = 0x09#8 ++ v ∧
    (s.fatal = false → ∃ y, temper y = v ∧ (∀ y', temper y' = v → y' = y) ∧
      exec (.untemper v) s = .next { s with responses := s.responses ++ [⟨.ok, y⟩] }) ∧
    (s.fatal = true → exec (.untemper v) s = .next { s with responses := s.responses ++ [⟨.errFatal, 0#32⟩] })

/-- R54: NOP, TEMPER, UNTEMPER and RDSTAT are pure: they change nothing but deliver a response (their frame). -/
def Obligations.PureCommandsFrame : Prop :=
  ∀ (i : Instr) (s t : State),
    (i = .nop ∨ (∃ v, i = .temper v) ∨ (∃ v, i = .untemper v) ∨ i = .rdstat) → exec i s = .next t →
    SameCore t s ∧ t.inputs = s.inputs

/-! ### EXTRACT -/

/-- R123, R124, R113: EXTRACT on a seeded core. Below the boundary it answers the tempered word at the cursor and advances the
cursor; at IDX = 624 it twists first, answers word 0 of the twisted array and leaves IDX = 1. -/
def Obligations.ExtractAnswersTheNextWord : Prop :=
  ∀ s : State,
    encode .extract = 0x0300000000#40 ∧
    (s.fatal = false → s.valid = true → s.idx.toNat < 624 →
      exec .extract s = .next { s with
        idx := s.idx + 1#10, responses := s.responses ++ [⟨.ok, temper (wordAt s.mt s.idx.toNat)⟩] }) ∧
    (s.fatal = false → s.valid = true → s.idx = 624#10 →
      exec .extract s = .next { s with
        mt := twist s.mt, idx := 1#10, responses := s.responses ++ [⟨.ok, temper (wordAt (twist s.mt) 0)⟩] }) ∧
    (s.fatal = true → exec .extract s = .next { s with responses := s.responses ++ [⟨.errFatal, 0#32⟩] })

/-- R181: EXTRACT, NEXTBYTE and XORB before any seeding answer ERR_UNSEEDED with DATA 0 and set E_UNS; nothing else
changes. -/
def Obligations.UnseededDrawSetsEUns : Prop :=
  ∀ (i : Instr) (s : State), (i = .extract ∨ i = .nextbyte ∨ ∃ d, i = .xorb d) →
    s.fatal = false → s.valid = false →
    exec i s = .next { s with eUns := true, responses := s.responses ++ [⟨.errUnseeded, 0#32⟩] }

/-- R183: a draw that needs a new word and finds IDX > 624 answers ERR_FATAL with DATA 0 and sets FATAL; nothing else
changes, IDX is left as found. -/
def Obligations.BrokenCursorSetsFatal : Prop :=
  ∀ (i : Instr) (s : State),
    (i = .extract ∨ (s.ksn = 0#3 ∧ (i = .nextbyte ∨ ∃ d, i = .xorb d))) →
    s.fatal = false → s.valid = true → 624 < s.idx.toNat →
    exec i s = .next { s with fatal := true, responses := s.responses ++ [⟨.errFatal, 0#32⟩] }

/-- R124, R20: the frame of EXTRACT. MT changes only by a twist at IDX = 624; the byte buffer and the load buffer never. -/
def Obligations.ExtractFrame : Prop :=
  ∀ s t : State, exec .extract s = .next t →
    (t.mt = s.mt ∨ (s.idx = 624#10 ∧ t.mt = twist s.mt)) ∧
    t.valid = s.valid ∧ t.ksw = s.ksw ∧ t.ksn = s.ksn ∧ t.lb = s.lb ∧ t.lcnt = s.lcnt ∧ t.eLen = s.eLen ∧
    t.eIll = s.eIll ∧ t.inputs = s.inputs ∧
    (s.valid = true → t.eUns = s.eUns) ∧ (s.idx.toNat ≤ 624 → t.fatal = s.fatal)

/-! ### The byte stream: NEXTBYTE, XORB, BYTEITER -/

/-- R150, R151: NEXTBYTE on a seeded core. With held bytes it delivers the next byte of KSW, the most significant first; with
none it extracts a word as EXTRACT does, delivers its most significant byte and holds the other three. -/
def Obligations.NextbyteDeliversTheNextByte : Prop :=
  ∀ s : State,
    encode .nextbyte = 0x0400000000#40 ∧
    (s.fatal = false → s.valid = true → 1 ≤ s.ksn.toNat → s.ksn.toNat ≤ 4 →
      exec .nextbyte s = .next { s with
        ksn := s.ksn - 1#3,
        responses := s.responses ++ [⟨.ok, (s.ksw >>> (8 * (s.ksn.toNat - 1))) &&& 0x000000FF#32⟩] }) ∧
    (s.fatal = false → s.valid = true → s.ksn = 0#3 → s.idx.toNat < 624 →
      exec .nextbyte s = .next { s with
        idx := s.idx + 1#10, ksw := temper (wordAt s.mt s.idx.toNat), ksn := 3#3,
        responses := s.responses ++ [⟨.ok, temper (wordAt s.mt s.idx.toNat) >>> 24⟩] }) ∧
    (s.fatal = false → s.valid = true → s.ksn = 0#3 → s.idx = 624#10 →
      exec .nextbyte s = .next { s with
        mt := twist s.mt, idx := 1#10, ksw := temper (wordAt (twist s.mt) 0), ksn := 3#3,
        responses := s.responses ++ [⟨.ok, temper (wordAt (twist s.mt) 0) >>> 24⟩] }) ∧
    (s.fatal = true → exec .nextbyte s = .next { s with responses := s.responses ++ [⟨.errFatal, 0#32⟩] })

/-- R152: XORB delivers the byte that NEXTBYTE would, xored with the data byte; the state moves as NEXTBYTE moves it, whatever
the data. XORB 0 is NEXTBYTE. -/
def Obligations.XorbXorsTheNextByte : Prop :=
  ∀ (d : Byte) (s : State),
    encode (.xorb d) = 0x05#8 ++ 0#24 ++ d ∧
    exec (.xorb 0) s = exec .nextbyte s ∧
    (s.fatal = false → s.valid = true → (s.ksn = 0#3 → s.idx.toNat ≤ 624) →
      ∃ (b : Byte) (u : State),
        exec .nextbyte s = .next { u with responses := s.responses ++ [⟨.ok, 0#24 ++ b⟩] } ∧
        exec (.xorb d) s = .next { u with responses := s.responses ++ [⟨.ok, 0#24 ++ (d ^^^ b)⟩] })

/-- R55, R154: from a word boundary of the byte stream, four NEXTBYTE spell the word that EXTRACT would answer, most
significant byte first, and move the generator as that EXTRACT would. -/
def Obligations.FourBytesSpellOneWord : Prop :=
  ∀ s : State, s.fatal = false → s.valid = true → s.ksn = 0#3 → s.idx.toNat ≤ 624 →
    ∃ (w : Word) (t u : State), send .extract s = some (⟨.ok, w⟩, t) ∧
      sendAll [.nextbyte, .nextbyte, .nextbyte, .nextbyte] s =
        some ([⟨.ok, w >>> 24⟩, ⟨.ok, (w >>> 16) &&& 0xFF#32⟩, ⟨.ok, (w >>> 8) &&& 0xFF#32⟩, ⟨.ok, w &&& 0xFF#32⟩], u) ∧
      u.mt = t.mt ∧ u.idx = t.idx ∧ u.ksn = 0#3 ∧ u.ksw = w

/-- R57: EXTRACT takes the generator's next word and leaves held bytes deliverable: an EXTRACT before a NEXTBYTE with held
bytes does not change the byte. -/
def Obligations.HeldBytesSurviveAnExtract : Prop :=
  ∀ s : State, s.fatal = false → s.valid = true → 1 ≤ s.ksn.toNat → s.ksn.toNat ≤ 4 → s.idx.toNat ≤ 624 →
    ∃ (w : Word) (r : Response) (t u v : State),
      send .nextbyte s = some (r, t) ∧ send .extract s = some (⟨.ok, w⟩, u) ∧
      sendAll [.extract, .nextbyte] s = some ([⟨.ok, w⟩, r], v)

/-- R153: BYTEITER drops the held bytes and does nothing else. -/
def Obligations.ByteiterDropsHeldBytes : Prop :=
  ∀ s : State,
    encode .byteiter = 0x0600000000#40 ∧
    (s.fatal = false → exec .byteiter s = .next { s with ksn := 0#3, responses := s.responses ++ [⟨.ok, 0#32⟩] }) ∧
    (s.fatal = true → exec .byteiter s = .next { s with responses := s.responses ++ [⟨.errFatal, 0#32⟩] })

/-- R151, R152: the frame of NEXTBYTE and XORB. -/
def Obligations.ByteDrawFrame : Prop :=
  ∀ (i : Instr) (s t : State), (i = .nextbyte ∨ ∃ d, i = .xorb d) → exec i s = .next t →
    (t.mt = s.mt ∨ (s.ksn = 0#3 ∧ s.idx = 624#10 ∧ t.mt = twist s.mt)) ∧
    (s.ksn ≠ 0#3 → t.idx = s.idx ∧ t.ksw = s.ksw ∧ t.fatal = s.fatal) ∧
    t.valid = s.valid ∧ t.lb = s.lb ∧ t.lcnt = s.lcnt ∧ t.eLen = s.eLen ∧ t.eIll = s.eIll ∧ t.inputs = s.inputs ∧
    (s.valid = true → t.eUns = s.eUns) ∧ (s.idx.toNat ≤ 624 → t.fatal = s.fatal)

/-- R155, R154: `encrypt(data, seed)` is data XOR keystream(seed), byte by byte, where keystream byte 4q + r is byte r, from
the top, of output word q after the seeding; the output has the input's length. R83: on a core that refuses the seeding, that
response is reported; that no bytes go with it is the model's choice (notes/assumptions/6.md). -/
def Obligations.EncryptIsXorWithTheKeystream : Prop :=
  ∀ (k : Word) (data : List Byte) (s : State),
    (s.fatal = false →
      ∃ (out : List Byte) (t u : State), exec (.seed k) s = .next u ∧ encryptWith (.seed k) data s = some (.ok out, t) ∧
        out.length = data.length ∧
        ∀ (j : Nat) (d : Byte), data[j]? = some d →
          ∃ w, outputWord (j / 4) u = some w ∧ out[j]? = some (d ^^^ w.extractLsb' (24 - 8 * (j % 4)) 8)) ∧
    (s.fatal = true → ∃ t, encryptWith (.seed k) data s = some (.error ⟨.errFatal, 0#32⟩, t))

/-- R156: encrypting twice with the same seeding gives the plaintext back, from any core that answers, for SEED and SEED16. -/
def Obligations.EncryptIsSelfInverse : Prop :=
  ∀ (seeding : Instr) (data : List Byte) (s s' : State), ((∃ k, seeding = .seed k) ∨ ∃ k, seeding = .seed16 k) →
    s.fatal = false → s'.fatal = false →
    ∃ (out : List Byte) (t t' : State),
      encryptWith seeding data s = some (.ok out, t) ∧ encryptWith seeding out s' = some (.ok data, t')

/-! ### StateCloner: LDBEGIN, LDRAW, LDOBS, LDCOMMIT -/

/-- R140: LDBEGIN clears LCNT and nothing else. -/
def Obligations.LdbeginClearsTheCount : Prop :=
  ∀ s : State,
    encode .ldbegin = 0x1000000000#40 ∧
    (s.fatal = false → exec .ldbegin s = .next { s with lcnt := 0#10, responses := s.responses ++ [⟨.ok, 0#32⟩] }) ∧
    (s.fatal = true → exec .ldbegin s = .next { s with responses := s.responses ++ [⟨.errFatal, 0#32⟩] })

/-- R141: LDRAW stores its word at LB[LCNT] and counts it; when 624 words are there the word is dropped and LCNT becomes 625;
neither is an error. -/
def Obligations.LdrawAppendsOneWord : Prop :=
  ∀ (w : Word) (s : State),
    encode (.ldraw w) = 0x11#8 ++ w ∧
    (s.fatal = false → s.lcnt.toNat < 624 →
      ∃ lb', exec (.ldraw w) s = .next { s with
          lb := lb', lcnt := s.lcnt + 1#10, responses := s.responses ++ [⟨.ok, 0#32⟩] } ∧
        wordAt lb' s.lcnt.toNat = w ∧ ∀ j, j < 624 → j ≠ s.lcnt.toNat → wordAt lb' j = wordAt s.lb j) ∧
    (s.fatal = false → 624 ≤ s.lcnt.toNat →
      exec (.ldraw w) s = .next { s with lcnt := 625#10, responses := s.responses ++ [⟨.ok, 0#32⟩] }) ∧
    (s.fatal = true → exec (.ldraw w) s = .next { s with responses := s.responses ++ [⟨.errFatal, 0#32⟩] })

/-- R142: LDOBS o is LDRAW untemper(o), in every state; so LDOBS of a tempered word stores the raw word. -/
def Obligations.LdobsAppendsTheUntemperedWord : Prop :=
  ∀ (o : Word) (s : State),
    encode (.ldobs o) = 0x12#8 ++ o ∧
    exec (.ldobs o) s = exec (.ldraw (untemper o)) s ∧
    (∀ w, s.fatal = false → s.lcnt.toNat < 624 → o = temper w →
      ∃ lb', exec (.ldobs o) s = .next { s with
          lb := lb', lcnt := s.lcnt + 1#10, responses := s.responses ++ [⟨.ok, 0#32⟩] } ∧
        wordAt lb' s.lcnt.toNat = w ∧ ∀ j, j < 624 → j ≠ s.lcnt.toNat → wordAt lb' j = wordAt s.lb j)

/-- R143, R180: LDCOMMIT of exactly 624 words makes them the generator, cursor 624, byte stream fresh, LCNT cleared; of any
other count it answers ERR_INVALID_STATE_LENGTH with the count as DATA, sets E_LEN, clears LCNT, and changes nothing else. -/
def Obligations.LdcommitInstallsExactly624Words : Prop :=
  ∀ s : State,
    encode .ldcommit = 0x1300000000#40 ∧
    (s.fatal = false → s.lcnt = 624#10 →
      exec .ldcommit s = .next { s with
        mt := s.lb, idx := 624#10, ksn := 0#3, valid := true, lcnt := 0#10, responses := s.responses ++ [⟨.ok, 0#32⟩] }) ∧
    (s.fatal = false → s.lcnt ≠ 624#10 →
      exec .ldcommit s = .next { s with
        eLen := true, lcnt := 0#10, responses := s.responses ++ [⟨.errInvalidStateLength, 0#22 ++ s.lcnt⟩] }) ∧
    (s.fatal = true → exec .ldcommit s = .next { s with responses := s.responses ++ [⟨.errFatal, 0#32⟩] })

/-- R140, R141, R142, R153, R172: the frame of the commands that write one register or one word of the load buffer. -/
def Obligations.SmallWritersFrame : Prop :=
  ∀ (i : Instr) (s t : State), exec i s = .next t →
    ((i = .ldbegin ∨ (∃ w, i = .ldraw w) ∨ (∃ o, i = .ldobs o)) →
      SameCore { t with lb := s.lb, lcnt := s.lcnt } s ∧ t.inputs = s.inputs ∧
      (∀ j, j < 624 → j ≠ s.lcnt.toNat → wordAt t.lb j = wordAt s.lb j) ∧ (i = .ldbegin → t.lb = s.lb)) ∧
    (i = .byteiter → SameCore { t with ksn := s.ksn } s ∧ t.inputs = s.inputs) ∧
    (i = .clrerr → SameCore { t with eLen := s.eLen, eUns := s.eUns, eIll := s.eIll } s ∧ t.inputs = s.inputs)

/-- R143: the frame of LDCOMMIT: on success MT, IDX, KSN, VALID and LCNT may change, on failure LCNT and E_LEN only. -/
def Obligations.LdcommitFrame : Prop :=
  ∀ s t : State, exec .ldcommit s = .next t →
    t.lb = s.lb ∧ t.ksw = s.ksw ∧ t.eUns = s.eUns ∧ t.eIll = s.eIll ∧ t.fatal = s.fatal ∧ t.inputs = s.inputs ∧
    (s.lcnt ≠ 624#10 → t.mt = s.mt ∧ t.idx = s.idx ∧ t.ksn = s.ksn ∧ t.valid = s.valid) ∧
    (s.lcnt = 624#10 → t.eLen = s.eLen)

/-- R144, R180: FROMSTATE of exactly 624 words makes the generator with those raw words; of any other number of words it ends
with ERR_INVALID_STATE_LENGTH, DATA the number (625 for more than 624), and the generator is untouched. -/
def Obligations.FromStateNeedsExactly624Words : Prop :=
  ∀ (ws : List Word) (s : State), s.fatal = false →
    (ws.length = 624 → ∃ rs t, runPseudo (.fromState ws) s = some (rs, t) ∧
      (∀ r, r ∈ rs → r = ⟨.ok, 0#32⟩) ∧
      (∀ i, i < 624 → ws[i]? = some (wordAt t.mt i)) ∧ t.idx = 624#10 ∧ t.valid = true ∧ t.ksn = 0#3) ∧
    (ws.length ≠ 624 → ∃ rs t, runPseudo (.fromState ws) s = some (rs, t) ∧
      rs.getLast? = some ⟨.errInvalidStateLength, BitVec.ofNat 32 (min ws.length 625)⟩ ∧
      t.mt = s.mt ∧ t.idx = s.idx ∧ t.valid = s.valid ∧ t.ksn = s.ksn ∧ t.ksw = s.ksw ∧ t.eLen = true)

/-- R145: 624 outputs captured from a twist boundary of one core and loaded into any other core rebuild the generator: the
clone's MT equals the original's word for word and both cursors are 624. -/
def Obligations.AlignedCloneEqualsTheOriginal : Prop :=
  ∀ s t : State, s.fatal = false → s.valid = true → s.idx = 624#10 → t.fatal = false →
    ∃ (os : List Word) (s' t' : State) (rs : List Response),
      drawWords 624 s = some (.ok os, s') ∧ runPseudo (.clone os) t = some (rs, t') ∧ (∀ r, r ∈ rs → r = ⟨.ok, 0#32⟩) ∧
      t'.mt = s'.mt ∧ s'.idx = 624#10 ∧ t'.idx = 624#10 ∧ t'.valid = true

/-- R59, R145: the same capture at any cursor also clones: from then on the clone's output stream is the original's, word for
word, for ever. -/
def Obligations.AnyConsecutiveWindowClones : Prop :=
  ∀ s t : State, s.fatal = false → s.valid = true → s.idx.toNat ≤ 624 → t.fatal = false →
    ∃ (os : List Word) (s' t' : State) (rs : List Response),
      drawWords 624 s = some (.ok os, s') ∧ runPseudo (.clone os) t = some (rs, t') ∧
      ∀ k, ∃ w, outputWord k s' = some w ∧ outputWord k t' = some w

/-! ### System: NOP, RDSTAT, CLRERR -/

/-- R170: NOP. -/
def Obligations.NopAnswersOk : Prop :=
  ∀ s : State,
    encode .nop = 0x0000000000#40 ∧
    (s.fatal = false → exec .nop s = .next { s with responses := s.responses ++ [⟨.ok, 0#32⟩] }) ∧
    (s.fatal = true → exec .nop s = .next { s with responses := s.responses ++ [⟨.errFatal, 0#32⟩] })

/-- R171, R28: RDSTAT answers OK and the STATUS word in every state, FATAL or not; each field of STATUS is the live value of
its register or flag, and the reserved bits read 0. -/
def Obligations.RdstatAnswersTheLiveStatus : Prop :=
  ∀ s : State,
    encode .rdstat = 0x2000000000#40 ∧
    ∃ w : Word, exec .rdstat s = .next { s with responses := s.responses ++ [⟨.ok, w⟩] } ∧
      w.extractLsb' 0 10 = s.idx ∧ w.extractLsb' 10 3 = s.ksn ∧ w.extractLsb' 13 10 = s.lcnt ∧
      w.getLsbD 23 = false ∧ w.getLsbD 24 = s.valid ∧ w.getLsbD 25 = s.eLen ∧ w.getLsbD 26 = s.eUns ∧
      w.getLsbD 27 = s.eIll ∧ w.getLsbD 28 = s.fatal ∧ w.extractLsb' 29 3 = 0#3

/-- R172: CLRERR clears the three sticky bits together and nothing else; under FATAL it is refused. -/
def Obligations.ClrerrClearsTheStickyBits : Prop :=
  ∀ s : State,
    encode .clrerr = 0x2100000000#40 ∧
    (s.fatal = false → exec .clrerr s = .next { s with
      eLen := false, eUns := false, eIll := false, responses := s.responses ++ [⟨.ok, 0#32⟩] }) ∧
    (s.fatal = true → exec .clrerr s = .next { s with responses := s.responses ++ [⟨.errFatal, 0#32⟩] })

/-! ### The whole machine -/

/-- R24, R29, R30, R35: every step keeps the invariant: 1 <= IDX <= 624, KSN <= 4, LCNT <= 625, KSN > 0 implies VALID,
FATAL = 0. -/
def Obligations.StepKeepsTheInvariant : Prop :=
  ∀ s t : State, CoreInv s → step s = .next t → CoreInv t

/-- R35: the invariant holds at reset. -/
def Obligations.ResetMeetsTheInvariant : Prop :=
  CoreInv State.reset

/-- R33: no rule reads a word that no rule has written: two cores that agree but for MT while VALID = 0, KSW while KSN = 0 and
LB from LCNT on still agree so after a step each, and have given the same responses. -/
def Obligations.UnreadableWordsNeverMatter : Prop :=
  ∀ s t s' : State, AgreeOnReadable s t → step s = .next s' → ∃ t', step t = .next t' ∧ AgreeOnReadable s' t'

/-- R32, R33: whatever stands in MT, LB and KSW after reset, the core agrees with `State.reset`; with the statement before it,
no response depends on those contents. -/
def Obligations.ResetContentsAreUnreadable : Prop :=
  ∀ (m l : Words) (k : Word), AgreeOnReadable State.reset { State.reset with mt := m, lb := l, ksw := k }

/-- R27: which commands set and clear the flags. VALID and FATAL are cleared by no command; the sticky bits only by CLRERR;
VALID is set only by SEED, SEED16 and LDCOMMIT, E_LEN only by LDCOMMIT, E_UNS and FATAL only by EXTRACT, NEXTBYTE and XORB,
E_ILL by no legal command. -/
def Obligations.FlagsChangeOnlyByTheirCommands : Prop :=
  ∀ (i : Instr) (s t : State), exec i s = .next t →
    (s.valid = true → t.valid = true) ∧
    (s.fatal = true → t.fatal = true) ∧
    (i ≠ .clrerr → (s.eLen = true → t.eLen = true) ∧ (s.eUns = true → t.eUns = true) ∧ (s.eIll = true → t.eIll = true)) ∧
    (s.valid = false → t.valid = true → (∃ w, i = .seed w) ∨ (∃ k, i = .seed16 k) ∨ i = .ldcommit) ∧
    (s.eLen = false → t.eLen = true → i = .ldcommit) ∧
    (s.eUns = false → t.eUns = true → i = .extract ∨ i = .nextbyte ∨ ∃ d, i = .xorb d) ∧
    (s.fatal = false → t.fatal = true → i = .extract ∨ i = .nextbyte ∨ ∃ d, i = .xorb d) ∧
    (s.eIll = false → t.eIll = false)

/-- R21: only SEED, SEED16, a twist inside EXTRACT, NEXTBYTE or XORB, and a successful LDCOMMIT write MT; and a twist runs only
at IDX = 624 (R113). -/
def Obligations.StateArrayHasFewWriters : Prop :=
  ∀ (i : Instr) (s t : State), exec i s = .next t → t.mt ≠ s.mt →
    (∃ w, i = .seed w ∧ t.mt = seedExpand w) ∨
    (∃ k, i = .seed16 k ∧ t.mt = seedExpand (0#16 ++ k)) ∨
    ((i = .extract ∨ i = .nextbyte ∨ ∃ d, i = .xorb d) ∧ s.idx = 624#10 ∧ t.mt = twist s.mt) ∨
    (i = .ldcommit ∧ s.lcnt = 624#10 ∧ t.mt = s.lb)

/-! ### The host's procedures and the pins -/

/-- R161, R163, R164: the 16-bit SeedSearch reports the lowest key under which the ciphertext decrypts to the plaintext, and
NotFound when there is none; spread over any cores it reports the same; a core that refuses its commands is told apart from
NotFound. That the search then stops and reports that response, and the blocks of the spread, are the model's choices
(notes/assumptions/6.md). -/
def Obligations.SeedSearchFindsTheLowestKey : Prop :=
  (∀ (plain cipher : List Byte) (s : State), s.fatal = false → plain.length = cipher.length → 1 ≤ plain.length →
    let decrypts := fun k : Nat => ∃ t, encryptWith (.seed16 (BitVec.ofNat 16 k)) cipher s = some (.ok plain, t)
    ((∃ k t, seedSearch16 plain cipher s = some (.found k, t) ∧ k < 65536 ∧ decrypts k ∧ ∀ j, j < k → ¬ decrypts j) ∨
      (∃ t, seedSearch16 plain cipher s = some (.notFound, t) ∧ ∀ j, j < 65536 → ¬ decrypts j)) ∧
    ∀ cores : List State, cores ≠ [] → (∀ c, c ∈ cores → c.fatal = false) →
      (seedSearch16Parallel plain cipher cores).map Prod.fst = (seedSearch16 plain cipher s).map Prod.fst) ∧
  (∀ (plain cipher : List Byte) (s : State), s.fatal = true →
    ∃ t, seedSearch16 plain cipher s = some (.failed ⟨.errFatal, 0#32⟩, t))

/-- R162, R163, R164: the time-windowed SeedSearch reports the earliest second of the window, both ends included, under whose
seed the decrypted ciphertext ends with the marker, and NotFound when there is none; spread over any cores it reports the same;
a core that refuses its commands is told apart from NotFound. That the search then stops and reports that response, and the
blocks of the spread, are the model's choices (notes/assumptions/6.md). -/
def Obligations.WindowSearchFindsTheEarliestSecond : Prop :=
  (∀ (lo hi : Nat) (cipher marker : List Byte) (s : State), s.fatal = false → marker.length ≤ cipher.length →
    let passes := fun j : Nat => ∃ out t, encryptWith (.seed (BitVec.ofNat 32 j)) cipher s = some (.ok out, t) ∧
      out.drop (cipher.length - marker.length) = marker
    ((∃ j t, seedSearchWindow lo hi cipher marker s = some (.found j, t) ∧ lo ≤ j ∧ j ≤ hi ∧ passes j ∧
        ∀ i, lo ≤ i → i < j → ¬ passes i) ∨
      (∃ t, seedSearchWindow lo hi cipher marker s = some (.notFound, t) ∧ ∀ i, lo ≤ i → i ≤ hi → ¬ passes i)) ∧
    ∀ cores : List State, cores ≠ [] → (∀ c, c ∈ cores → c.fatal = false) →
      (seedSearchWindowParallel lo hi cipher marker cores).map Prod.fst =
        (seedSearchWindow lo hi cipher marker s).map Prod.fst) ∧
  (∀ (lo hi : Nat) (cipher marker : List Byte) (s : State), s.fatal = true → lo ≤ hi →
    ∃ t, seedSearchWindow lo hi cipher marker s = some (.failed ⟨.errFatal, 0#32⟩, t))

/-- R193, R34: a command to one core instance changes that instance as the command does and no other. -/
def Obligations.CoresShareNothing : Prop :=
  ∀ (k : Nat) (c : Command) (cores : List State), k < cores.length →
    ∃ cores' s t, commandAt k c cores = some cores' ∧ cores[k]? = some s ∧ runCommand c s = .next t ∧ cores'[k]? = some t ∧
      cores'.length = cores.length ∧ ∀ j, j ≠ k → cores'[j]? = cores[j]?

/-- R71, R200: at the pins. While a command is in flight `cmd_ready` is 0; an offered response is held stable until it is
delivered, and delivered once; with `rst = 1` neither `cmd_ready` nor `rsp_valid` is set and the edge leaves the reset state
with no response delivered. The model's own choices in it: that MT, LB and KSW take the fixed, free words of `State.reset` at
every reset (notes/assumptions/1.md), that the responses already delivered stay (notes/assumptions/3.md), and that the count
`accepted`, which indexes the free latency, keeps its value at reset (notes/assumptions/4.md). -/
def Obligations.HandshakeHoldsAtThePins : Prop :=
  ∀ (k : ClockedCore) (p : PinsIn),
    (k.phase ≠ .idle → (outputPins k p).cmdReady = false) ∧
    (p.rst = true → (outputPins k p).cmdReady = false ∧ (outputPins k p).rspValid = false ∧
      clockEdge p k = { k with core := State.reset, phase := .idle }) ∧
    (∀ r, k.phase = .answering r → p.rst = false →
      (outputPins k p).rspValid = true ∧ (outputPins k p).rsp = r ∧
      (p.rspReady = false → clockEdge p k = k) ∧
      (p.rspReady = true → clockEdge p k = { k with phase := .idle, delivered := k.delivered ++ [r] }))

/-- R71, R73, R74, R75: a command accepted at the pins (`cmd_ready` and `cmd_valid` both 1), with no reset meanwhile, is
answered after its latency: the response offered is the code of the status over DATA, and it and the core's new state are those
of the one transaction of the step, whatever the other pins do. The model's own in it (notes/assumptions/4.md): that an idle
core out of reset is ready (first clause, DEDUCED), the latency, a free value (the statement holds for every one), and the
count `accepted`, which indexes it and rises by one. -/
def Obligations.AcceptedCommandIsAnswered : Prop :=
  (∀ (k : ClockedCore) (p : PinsIn), k.phase = .idle → p.rst = false → (outputPins k p).cmdReady = true) ∧
  ∀ (k : ClockedCore) (p : PinsIn) (ps : List PinsIn),
    (outputPins k p).cmdReady = true → p.cmdValid = true → (∀ q, q ∈ ps → q.rst = false) →
    ps.length = Config.extraCycles k.accepted →
    ∃ (t : State) (r : Response) (st : BitVec 4),
      (r.status = .ok → st = 0x0#4) ∧ (r.status = .errInvalidStateLength → st = 0x1#4) ∧
      (r.status = .errUnseeded → st = 0x2#4) ∧ (r.status = .errIllegalCommand → st = 0x3#4) ∧
      (r.status = .errFatal → st = 0xF#4) ∧
      step { k.core with inputs := [.command p.cmd], responses := [] } = .next { t with responses := [r] } ∧
      clockEdges (p :: ps) k =
        { core := { t with responses := [] }, phase := .answering (st ++ r.data),
          accepted := k.accepted + 1, delivered := k.delivered }
end

