-- ==== Sys2Proof/Laws/State.lean ====
section
/-! SUPPORT. One lemma per field per named update of State, each true by rfl, so that no later proof unfolds a record update. -/

namespace Sys2Proof.Machine

variable (s : State) (st : Status) (d : Word) (a : Words)

@[simp] theorem respond_mt : (respond st d s).mt = s.mt := rfl
@[simp] theorem respond_idx : (respond st d s).idx = s.idx := rfl
@[simp] theorem respond_valid : (respond st d s).valid = s.valid := rfl
@[simp] theorem respond_ksw : (respond st d s).ksw = s.ksw := rfl
@[simp] theorem respond_ksn : (respond st d s).ksn = s.ksn := rfl
@[simp] theorem respond_lb : (respond st d s).lb = s.lb := rfl
@[simp] theorem respond_lcnt : (respond st d s).lcnt = s.lcnt := rfl
@[simp] theorem respond_eLen : (respond st d s).eLen = s.eLen := rfl
@[simp] theorem respond_eUns : (respond st d s).eUns = s.eUns := rfl
@[simp] theorem respond_eIll : (respond st d s).eIll = s.eIll := rfl
@[simp] theorem respond_fatal : (respond st d s).fatal = s.fatal := rfl
@[simp] theorem respond_inputs : (respond st d s).inputs = s.inputs := rfl
@[simp] theorem respond_responses : (respond st d s).responses = s.responses ++ [⟨st, d⟩] := rfl

@[simp] theorem installGenerator_mt : (installGenerator a s).mt = a := rfl
@[simp] theorem installGenerator_idx : (installGenerator a s).idx = 624#10 := rfl
@[simp] theorem installGenerator_valid : (installGenerator a s).valid = true := rfl
@[simp] theorem installGenerator_ksw : (installGenerator a s).ksw = s.ksw := rfl
@[simp] theorem installGenerator_ksn : (installGenerator a s).ksn = 0#3 := rfl
@[simp] theorem installGenerator_lb : (installGenerator a s).lb = s.lb := rfl
@[simp] theorem installGenerator_lcnt : (installGenerator a s).lcnt = s.lcnt := rfl
@[simp] theorem installGenerator_eLen : (installGenerator a s).eLen = s.eLen := rfl
@[simp] theorem installGenerator_eUns : (installGenerator a s).eUns = s.eUns := rfl
@[simp] theorem installGenerator_eIll : (installGenerator a s).eIll = s.eIll := rfl
@[simp] theorem installGenerator_fatal : (installGenerator a s).fatal = s.fatal := rfl
@[simp] theorem installGenerator_inputs : (installGenerator a s).inputs = s.inputs := rfl
@[simp] theorem installGenerator_responses : (installGenerator a s).responses = s.responses := rfl

@[simp] theorem twistState_mt : (twistState s).mt = twist s.mt := rfl
@[simp] theorem twistState_idx : (twistState s).idx = 0#10 := rfl
@[simp] theorem twistState_valid : (twistState s).valid = s.valid := rfl
@[simp] theorem twistState_ksw : (twistState s).ksw = s.ksw := rfl
@[simp] theorem twistState_ksn : (twistState s).ksn = s.ksn := rfl
@[simp] theorem twistState_lb : (twistState s).lb = s.lb := rfl
@[simp] theorem twistState_lcnt : (twistState s).lcnt = s.lcnt := rfl
@[simp] theorem twistState_eLen : (twistState s).eLen = s.eLen := rfl
@[simp] theorem twistState_eUns : (twistState s).eUns = s.eUns := rfl
@[simp] theorem twistState_eIll : (twistState s).eIll = s.eIll := rfl
@[simp] theorem twistState_fatal : (twistState s).fatal = s.fatal := rfl
@[simp] theorem twistState_inputs : (twistState s).inputs = s.inputs := rfl
@[simp] theorem twistState_responses : (twistState s).responses = s.responses := rfl

@[simp] theorem clearErrorBits_mt : (clearErrorBits s).mt = s.mt := rfl
@[simp] theorem clearErrorBits_idx : (clearErrorBits s).idx = s.idx := rfl
@[simp] theorem clearErrorBits_valid : (clearErrorBits s).valid = s.valid := rfl
@[simp] theorem clearErrorBits_ksw : (clearErrorBits s).ksw = s.ksw := rfl
@[simp] theorem clearErrorBits_ksn : (clearErrorBits s).ksn = s.ksn := rfl
@[simp] theorem clearErrorBits_lb : (clearErrorBits s).lb = s.lb := rfl
@[simp] theorem clearErrorBits_lcnt : (clearErrorBits s).lcnt = s.lcnt := rfl
@[simp] theorem clearErrorBits_eLen : (clearErrorBits s).eLen = false := rfl
@[simp] theorem clearErrorBits_eUns : (clearErrorBits s).eUns = false := rfl
@[simp] theorem clearErrorBits_eIll : (clearErrorBits s).eIll = false := rfl
@[simp] theorem clearErrorBits_fatal : (clearErrorBits s).fatal = s.fatal := rfl
@[simp] theorem clearErrorBits_inputs : (clearErrorBits s).inputs = s.inputs := rfl
@[simp] theorem clearErrorBits_responses : (clearErrorBits s).responses = s.responses := rfl

@[simp] theorem assertReset_mt : (assertReset s).mt = State.reset.mt := rfl
@[simp] theorem assertReset_idx : (assertReset s).idx = State.reset.idx := rfl
@[simp] theorem assertReset_valid : (assertReset s).valid = State.reset.valid := rfl
@[simp] theorem assertReset_ksw : (assertReset s).ksw = State.reset.ksw := rfl
@[simp] theorem assertReset_ksn : (assertReset s).ksn = State.reset.ksn := rfl
@[simp] theorem assertReset_lb : (assertReset s).lb = State.reset.lb := rfl
@[simp] theorem assertReset_lcnt : (assertReset s).lcnt = State.reset.lcnt := rfl
@[simp] theorem assertReset_eLen : (assertReset s).eLen = State.reset.eLen := rfl
@[simp] theorem assertReset_eUns : (assertReset s).eUns = State.reset.eUns := rfl
@[simp] theorem assertReset_eIll : (assertReset s).eIll = State.reset.eIll := rfl
@[simp] theorem assertReset_fatal : (assertReset s).fatal = State.reset.fatal := rfl
@[simp] theorem assertReset_inputs : (assertReset s).inputs = s.inputs := rfl
@[simp] theorem assertReset_responses : (assertReset s).responses = s.responses := rfl

@[simp] theorem takeWord_mt : (takeWord s).2.mt = s.mt := rfl
@[simp] theorem takeWord_idx : (takeWord s).2.idx = s.idx + 1#10 := rfl
@[simp] theorem takeWord_valid : (takeWord s).2.valid = s.valid := rfl
@[simp] theorem takeWord_ksw : (takeWord s).2.ksw = s.ksw := rfl
@[simp] theorem takeWord_ksn : (takeWord s).2.ksn = s.ksn := rfl
@[simp] theorem takeWord_lb : (takeWord s).2.lb = s.lb := rfl
@[simp] theorem takeWord_lcnt : (takeWord s).2.lcnt = s.lcnt := rfl
@[simp] theorem takeWord_eLen : (takeWord s).2.eLen = s.eLen := rfl
@[simp] theorem takeWord_eUns : (takeWord s).2.eUns = s.eUns := rfl
@[simp] theorem takeWord_eIll : (takeWord s).2.eIll = s.eIll := rfl
@[simp] theorem takeWord_fatal : (takeWord s).2.fatal = s.fatal := rfl
@[simp] theorem takeWord_inputs : (takeWord s).2.inputs = s.inputs := rfl
@[simp] theorem takeWord_responses : (takeWord s).2.responses = s.responses := rfl
@[simp] theorem takeWord_word : (takeWord s).1 = temper (wordAt s.mt s.idx.toNat) := rfl

@[simp] theorem takeByte_mt : (takeByte s).2.mt = s.mt := rfl
@[simp] theorem takeByte_idx : (takeByte s).2.idx = s.idx := rfl
@[simp] theorem takeByte_valid : (takeByte s).2.valid = s.valid := rfl
@[simp] theorem takeByte_ksw : (takeByte s).2.ksw = s.ksw := rfl
@[simp] theorem takeByte_ksn : (takeByte s).2.ksn = s.ksn - 1#3 := rfl
@[simp] theorem takeByte_lb : (takeByte s).2.lb = s.lb := rfl
@[simp] theorem takeByte_lcnt : (takeByte s).2.lcnt = s.lcnt := rfl
@[simp] theorem takeByte_eLen : (takeByte s).2.eLen = s.eLen := rfl
@[simp] theorem takeByte_eUns : (takeByte s).2.eUns = s.eUns := rfl
@[simp] theorem takeByte_eIll : (takeByte s).2.eIll = s.eIll := rfl
@[simp] theorem takeByte_fatal : (takeByte s).2.fatal = s.fatal := rfl
@[simp] theorem takeByte_inputs : (takeByte s).2.inputs = s.inputs := rfl
@[simp] theorem takeByte_responses : (takeByte s).2.responses = s.responses := rfl
@[simp] theorem takeByte_byte : (takeByte s).1 = byteOfWord s.ksw s.ksn := rfl

end Sys2Proof.Machine
end

