-- ==== Sys2Proof/Laws/Ops.lean ====
section
/-! SUPPORT. For each shared operation, one lemma that says what it can do; proofs cite these instead of unfolding. -/

namespace Sys2Proof.Machine

/-! ### The register files (R20) -/

/-- What a write leaves at each index below 624. -/
theorem wordAt_setWord (a : Words) (v : Word) {i j : Nat} (hi : i < N) (hj : j < N) :
    wordAt (setWord a i v) j = if i = j then v else wordAt a j := by
  simp [wordAt, setWord, Vector.getElem_set, Nat.mod_eq_of_lt hi, Nat.mod_eq_of_lt hj]

@[simp] theorem wordAt_mod (a : Words) (i : Nat) : wordAt a (i % N) = wordAt a i := by
  simp [wordAt]

/-- Two register files with the same 624 words are equal. -/
theorem words_ext {a b : Words} (h : ∀ i, i < N → wordAt a i = wordAt b i) : a = b := by
  apply Vector.ext
  intro i hi
  have := h i hi
  simpa [wordAt, Nat.mod_eq_of_lt hi] using this

/-! ### The seed chain and the twist pass, one iteration at a time (R100, R110) -/

/-- Each word of the chain after the first comes from the one before it. -/
theorem seedWords_getElem_succ (n i k : Nat) (w : Word) (h : k + 1 < n) :
    (seedWords n i w)[k + 1]'(by simp [seedWords_length, h]) =
      seedNext ((seedWords n i w)[k]'(by simp [seedWords_length]; omega)) (i + k) := by
  induction n generalizing i k w with
  | zero => omega
  | succ n ih =>
    cases k with
    | zero =>
      cases n with
      | zero => omega
      | succ n => simp [seedWords]
    | succ k =>
      have := ih (i + 1) k (seedNext w i) (by omega)
      simpa [seedWords, Nat.add_assoc, Nat.add_comm 1 k] using this

@[simp] theorem twistPass_zero (mt : Words) : twistPass mt 0 = mt := rfl

theorem twistPass_succ (mt : Words) (n : Nat) : twistPass mt (n + 1) = twistStep (twistPass mt n) n := by
  simp [twistPass, List.range_succ]

/-- An iteration writes its own word only. -/
theorem wordAt_twistStep_of_ne (mt : Words) {n j : Nat} (hn : n < N) (hj : j < N) (h : n ≠ j) :
    wordAt (twistStep mt n) j = wordAt mt j := by
  simp [twistStep, wordAt_setWord _ _ hn hj, h]

/-- A word the pass has not reached is as before the pass. -/
theorem wordAt_twistPass_of_ge (mt : Words) {n j : Nat} (hn : n ≤ j) (hj : j < N) :
    wordAt (twistPass mt n) j = wordAt mt j := by
  induction n with
  | zero => rfl
  | succ n ih =>
    rw [twistPass_succ, wordAt_twistStep_of_ne _ (by omega) hj (by omega), ih (by omega)]

/-- A word the pass has written keeps its value to the end of the pass. -/
theorem wordAt_twistPass_of_lt (mt : Words) {n m j : Nat} (hjn : j < n) (hnm : n ≤ m) (hm : m ≤ N) :
    wordAt (twistPass mt m) j = wordAt (twistPass mt n) j := by
  induction m with
  | zero => omega
  | succ m ih =>
    rcases Nat.lt_or_ge m n with h | h
    · have : n = m + 1 := by omega
      rw [this]
    · rw [twistPass_succ, wordAt_twistStep_of_ne _ (by omega) (by omega) (by omega), ih h (by omega)]

/-! ### Bits (R132) -/

theorem getLsbD_putBit (x : Word) (v : Bool) {b j : Nat} (hb : b < 32) (hj : j < 32) :
    (putBit x b v).getLsbD j = if b = j then v else x.getLsbD j := by
  rcases eq_or_ne b j with rfl | h
  · cases v <;> simp [putBit, hb]
  · have h' : ¬j = b := fun e => h e.symm
    cases v <;> simp [putBit, h, h', hj]

/-! ### Raising, and the FATAL check (R75, R180 to R184) -/

theorem raise_invalidStateLength (info : Word) (s : State) :
    raise .invalidStateLength info s = respond .errInvalidStateLength info { s with eLen := true, lcnt := 0#10 } := rfl

theorem raise_unseeded (info : Word) (s : State) :
    raise .unseeded info s = respond .errUnseeded info { s with eUns := true } := rfl

theorem raise_illegalCommand (info : Word) (s : State) :
    raise .illegalCommand info s = respond .errIllegalCommand info { s with eIll := true } := rfl

theorem raise_fatalCursor (info : Word) (s : State) :
    raise .fatalCursor info s = respond .errFatal info { s with fatal := true } := rfl

theorem unlessFatal_of_fatal {s : State} (body : State → State) (h : s.fatal = true) :
    unlessFatal body s = respond .errFatal 0#32 s := by
  simp [unlessFatal, h]

theorem unlessFatal_of_not_fatal {s : State} (body : State → State) (h : s.fatal = false) : unlessFatal body s = body s := by
  simp [unlessFatal, h]

/-! ### Drawing (R123, R150) -/

theorem extract_cases (s : State) :
    (624 < s.idx.toNat ∧ extract s = .error .fatalCursor) ∨
    (s.idx.toNat = 624 ∧ extract s = .ok (takeWord (twistState s))) ∨
    (s.idx.toNat < 624 ∧ extract s = .ok (takeWord s)) := by
  rcases Nat.lt_trichotomy s.idx.toNat 624 with h | h | h
  · have hne : s.idx ≠ 624#10 := by intro e; rw [e] at h; exact absurd h (by decide)
    exact .inr (.inr ⟨h, by simp [extract, twistIfDue, hne, Nat.not_lt.2 (Nat.le_of_lt h)]⟩)
  · have he : s.idx = 624#10 := BitVec.eq_of_toNat_eq h
    exact .inr (.inl ⟨h, by simp [extract, twistIfDue, he]⟩)
  · exact .inl ⟨h, by simp [extract, h]⟩

theorem nextByte_cases (s : State) :
    (s.ksn ≠ 0#3 ∧ nextByte s = .ok (takeByte s)) ∨
    (s.ksn = 0#3 ∧ ∃ e, extract s = .error e ∧ nextByte s = .error e) ∨
    (s.ksn = 0#3 ∧ ∃ w t, extract s = .ok (w, t) ∧ nextByte s = .ok (takeByte { t with ksw := w, ksn := 4#3 })) := by
  by_cases h : s.ksn = 0#3
  · right
    cases he : extract s with
    | error e => exact .inl ⟨h, e, rfl, by simp [nextByte, h, he]⟩
    | ok p => exact .inr ⟨h, p.1, p.2, rfl, by simp [nextByte, h, he]⟩
  · exact .inl ⟨h, by simp [nextByte, h]⟩

theorem answerDraw_cases (draw : State → Except CoreError (Word × State)) (s : State) :
    (s.valid = false ∧ answerDraw draw s = raise .unseeded 0#32 s) ∨
    (s.valid = true ∧ ∃ e, draw s = .error e ∧ answerDraw draw s = raise e 0#32 s) ∨
    (s.valid = true ∧ ∃ v t, draw s = .ok (v, t) ∧ answerDraw draw s = respond .ok v t) := by
  cases hv : s.valid with
  | false => exact .inl ⟨rfl, by simp [answerDraw, hv]⟩
  | true =>
    right
    cases hd : draw s with
    | error e => exact .inl ⟨rfl, e, rfl, by simp [answerDraw, hv, hd]⟩
    | ok p => exact .inr ⟨rfl, p.1, p.2, rfl, by simp [answerDraw, hv, hd]⟩

theorem drawByte_cases (s : State) :
    (∃ e, nextByte s = .error e ∧ drawByte s = .error e) ∨
    (∃ b t, nextByte s = .ok (b, t) ∧ drawByte s = .ok (zextByte b, t)) := by
  cases h : nextByte s with
  | error e => exact .inl ⟨e, rfl, by simp [drawByte, h]⟩
  | ok p => exact .inr ⟨p.1, p.2, rfl, by simp [drawByte, h]⟩

theorem drawByteXor_cases (d : Byte) (s : State) :
    (∃ e, nextByte s = .error e ∧ drawByteXor d s = .error e) ∨
    (∃ b t, nextByte s = .ok (b, t) ∧ drawByteXor d s = .ok (zextByte (d ^^^ b), t)) := by
  cases h : nextByte s with
  | error e => exact .inl ⟨e, rfl, by simp [drawByteXor, h]⟩
  | ok p => exact .inr ⟨p.1, p.2, rfl, by simp [drawByteXor, h]⟩

/-- The byte at a held position is KSW shifted down and cut to 8 bits. -/
theorem byteOfWord_eq (w : Word) (n : BitVec 3) : byteOfWord w n = (w >>> (8 * n.toNat - 8)).setWidth 8 := by
  apply BitVec.eq_of_getLsbD_eq
  intro i hi
  simp [byteOfWord, BitVec.getLsbD_extractLsb', BitVec.getLsbD_setWidth, BitVec.getLsbD_ushiftRight]

/-- Above the legal byte positions there are no bits of KSW: the byte is 0. -/
theorem byteOfWord_of_gt (w : Word) {n : BitVec 3} (h : 4 < n.toNat) : byteOfWord w n = 0 := by
  apply BitVec.eq_of_getLsbD_eq
  intro i hi
  have : w.getLsbD (8 * n.toNat - 8 + i) = false := BitVec.getLsbD_of_ge w _ (by omega)
  simp [byteOfWord, BitVec.getLsbD_extractLsb', this]

/-! ### The load buffer (R141, R143) -/

theorem appendWord_cases (w : Word) (s : State) :
    (s.lcnt.toNat < 624 ∧ appendWord w s = { s with lb := setWord s.lb s.lcnt.toNat w, lcnt := s.lcnt + 1#10 }) ∨
    (624 ≤ s.lcnt.toNat ∧ appendWord w s = { s with lcnt := 625#10 }) := by
  by_cases h : s.lcnt.toNat < 624
  · exact .inl ⟨h, by simp [appendWord, h]⟩
  · exact .inr ⟨Nat.le_of_not_lt h, by simp [appendWord, h]⟩

theorem commitLoad_cases (s : State) :
    (s.lcnt = 624#10 ∧ commitLoad s = respond .ok 0#32 { installGenerator s.lb s with lcnt := 0#10 }) ∨
    (s.lcnt ≠ 624#10 ∧ commitLoad s = raise .invalidStateLength (zextCount s.lcnt) s) := by
  by_cases h : s.lcnt = 624#10
  · exact .inl ⟨h, by simp [commitLoad, h]⟩
  · exact .inr ⟨h, by simp [commitLoad, h]⟩

/-! ### The step (R75) -/

/-- Every meaning answers a next state. -/
theorem exec_answers (i : Instr) (s : State) : ∃ t, exec i s = .next t := by
  cases i <;> exact ⟨_, rfl⟩

/-- What one command word can do. -/
theorem runCommand_cases (c : Command) (s : State) :
    (∃ i, decode c = .ok i ∧ runCommand c s = exec i s) ∨
    (∃ e, decode c = .error e ∧ runCommand c s = .next (rejectWord s)) := by
  cases h : decode c with
  | ok i => exact .inl ⟨i, rfl, by simp [runCommand, h]⟩
  | error e => exact .inr ⟨e, rfl, by simp [runCommand, h]⟩

/-- What one step can do. -/
theorem step_cases (s : State) :
    (s.inputs = [] ∧ step s = .next s) ∨
    (∃ c rest, s.inputs = .command c :: rest ∧ step s = runCommand c { s with inputs := rest }) ∨
    (∃ x rest, s.inputs = x :: rest ∧ (x = .reset ∨ ∃ c, x = .commandThenReset c) ∧
      step s = .next (assertReset { s with inputs := rest })) := by
  cases h : s.inputs with
  | nil => exact .inl ⟨rfl, by simp [step, serveInput, h]⟩
  | cons x rest =>
    right
    cases x with
    | command c => exact .inl ⟨c, rest, rfl, by simp [step, serveInput, h]⟩
    | reset => exact .inr ⟨_, rest, rfl, .inl rfl, by simp [step, serveInput, h]⟩
    | commandThenReset c => exact .inr ⟨_, rest, rfl, .inr ⟨c, rfl⟩, by simp [step, serveInput, h]⟩

end Sys2Proof.Machine
end

