-- ==== Sys2Proof/Laws/HostProc.lean ====
section
/-! SUPPORT. One lemma for a command sent and one for a sequence of commands (spec/30_encoding.md R83). -/

namespace Sys2Proof.Machine

/-- Sending a command whose next state has just delivered `r`. -/
theorem send_of_exec {i : Instr} {s t : State} {rs : List Response} {r : Response}
    (h : exec i s = .next t) (hr : t.responses = rs ++ [r]) : send i s = some (r, t) := by
  simp [send, h, hr]

@[simp] theorem sendAll_nil (s : State) : sendAll [] s = some ([], s) := rfl

/-- A command answered OK is followed by the rest of the sequence. -/
theorem sendAll_cons_of_ok {i : Instr} {is : List Instr} {s t : State} {d : Word}
    (h : send i s = some (⟨.ok, d⟩, t)) :
    sendAll (i :: is) s = (sendAll is t).map fun p => (⟨.ok, d⟩ :: p.1, p.2) := by
  simp only [sendAll, h, if_true]
  cases sendAll is t <;> rfl

/-- The sequence stops at a response that is not OK. -/
theorem sendAll_cons_of_error {i : Instr} {is : List Instr} {s t : State} {r : Response}
    (h : send i s = some (r, t)) (hr : r.status ≠ .ok) : sendAll (i :: is) s = some ([r], t) := by
  simp [sendAll, h, hr]

/-- Two sequences sent one after the other, when the first is answered OK throughout. -/
theorem sendAll_append {is js : List Instr} {s t : State} {rs : List Response}
    (h : sendAll is s = some (rs, t)) (hok : ∀ r, r ∈ rs → r.status = .ok) :
    sendAll (is ++ js) s = (sendAll js t).map fun p => (rs ++ p.1, p.2) := by
  induction is generalizing s rs with
  | nil =>
    obtain ⟨rfl, rfl⟩ : rs = [] ∧ s = t := by simpa using h
    cases h' : sendAll js s <;> simp [h']
  | cons i is ih =>
    unfold sendAll at h
    split at h
    · cases h
    · rename_i r u hs
      split at h
      · rename_i hr
        split at h
        · cases h
        · rename_i rs' v htail
          injection h with h
          injection h with h1 h2
          subst h1 h2
          have := ih htail fun r hr => hok r (List.mem_cons_of_mem _ hr)
          simp only [List.cons_append, sendAll, hs, hr, if_true, this]
          cases sendAll js v <;> rfl
      · rename_i hr
        injection h with h
        injection h with h1 h2
        subst h1 h2
        exact absurd (hok r (by simp)) hr

/-- A sequence answered OK throughout gives its responses back. -/
theorem reported_of_ok {rs : List Response} (h : ∀ r, r ∈ rs → r.status = .ok) : reported rs = .ok rs := by
  have : rs.find? (fun r => r.status ≠ .ok) = none := by simpa using h
  simp only [reported, this]

/-- The first response that is not OK is what is reported. -/
theorem reported_of_error {rs qs : List Response} {r : Response} (h : ∀ q, q ∈ rs → q.status = .ok)
    (hr : r.status ≠ .ok) : reported (rs ++ r :: qs) = .error r := by
  have : rs.find? (fun r => !decide (r.status = .ok)) = none := by simpa using h
  simp [reported, List.find?_append, this, hr]

end Sys2Proof.Machine
end

