-- ==== Sys2Proof/Laws/Search.lean ====
section
/-! SUPPORT. What a candidate search does on cores that answer every command OK (spec/46_seed_search.md R161 to R164): it
reports the first candidate that passes, and spreading it over several cores reports the same. -/

namespace Sys2Proof.Machine

/-- The first of `n` candidates from `k` upwards that satisfies `P`. -/
def firstFrom (P : Nat → Bool) : Nat → Nat → SearchResult
  | 0, _ => .notFound
  | n + 1, k => if P k then .found k else firstFrom P n (k + 1)

/-- What `firstFrom` can say: the least candidate that satisfies `P`, or that there is none. -/
theorem firstFrom_cases (P : Nat → Bool) (n k : Nat) :
    (∃ j, firstFrom P n k = .found j ∧ k ≤ j ∧ j < k + n ∧ P j = true ∧ ∀ i, k ≤ i → i < j → P i = false) ∨
    (firstFrom P n k = .notFound ∧ ∀ i, k ≤ i → i < k + n → P i = false) := by
  induction n generalizing k with
  | zero => exact .inr ⟨rfl, fun i h1 h2 => by omega⟩
  | succ n ih =>
    cases hk : P k with
    | true => exact .inl ⟨k, by simp [firstFrom, hk], by omega, by omega, hk, fun i h1 h2 => by omega⟩
    | false =>
      have step : firstFrom P (n + 1) k = firstFrom P n (k + 1) := by simp [firstFrom, hk]
      have low : ∀ i, k ≤ i → ¬ k + 1 ≤ i → P i = false := fun i h1 h2 => by
        rw [show i = k by omega]; exact hk
      rcases ih (k + 1) with ⟨j, h1, h2, h3, h4, h5⟩ | ⟨h1, h2⟩
      · exact .inl ⟨j, step.trans h1, by omega, by omega, h4, fun i hi hj =>
          if h : k + 1 ≤ i then h5 i h hj else low i hi h⟩
      · exact .inr ⟨step.trans h1, fun i hi hj =>
          if h : k + 1 ≤ i then h2 i h (by omega) else low i hi h⟩

/-- Searching a block and then the candidates after it. -/
theorem firstFrom_add (P : Nat → Bool) (m n k : Nat) :
    firstFrom P (m + n) k = if firstFrom P m k = .notFound then firstFrom P n (k + m) else firstFrom P m k := by
  induction m generalizing k with
  | zero => simp [firstFrom]
  | succ m ih =>
    rw [Nat.succ_add]
    cases hk : P k <;> simp [firstFrom, hk, ih, Nat.add_assoc, Nat.add_comm 1 m]

variable {seeding : Nat → Instr} {test : State → Option (TestResult × State)} {P : Nat → Bool} {Q : State → Prop}

/-- Every candidate's seeding is answered OK, and its test says what `P` says; `Q` is what the cores keep. -/
def Answers (seeding : Nat → Instr) (test : State → Option (TestResult × State)) (P : Nat → Bool) (Q : State → Prop) :
    Prop :=
  ∀ k s, Q s → ∃ d t u, send (seeding k) s = some (⟨.ok, d⟩, t) ∧
    test t = some (if P k then .passed else .mismatch, u) ∧ Q u

/-- The loop reports the first candidate that satisfies `P`. -/
theorem searchFrom_eq (h : Answers seeding test P Q) (n k : Nat) {s : State} (hs : Q s) :
    ∃ u, searchFrom seeding test n k s = some (firstFrom P n k, u) ∧ Q u := by
  induction n generalizing k s with
  | zero => exact ⟨s, rfl, hs⟩
  | succ n ih =>
    obtain ⟨d, t, u, h1, h2, h3⟩ := h k s hs
    cases hk : P k with
    | true => exact ⟨u, by simp [searchFrom, h1, h2, hk, firstFrom], h3⟩
    | false =>
      obtain ⟨v, h4, h5⟩ := ih (k + 1) h3
      exact ⟨v, by simp [searchFrom, h1, h2, hk, firstFrom, h4], h5⟩

/-- A block's result followed by the lowest of the blocks above it. -/
theorem lowestFound_cons_firstFrom {m n k : Nat} {rs : List SearchResult} (h : lowestFound rs = firstFrom P n (k + m)) :
    lowestFound (firstFrom P m k :: rs) = firstFrom P (m + n) k := by
  rw [firstFrom_add]
  rcases firstFrom_cases P m k with ⟨j, h1, _, h3, _, _⟩ | ⟨h1, _⟩
  · rw [h1]
    rcases firstFrom_cases P n (k + m) with ⟨i, h4, h5, _, _, _⟩ | ⟨h4, _⟩
    · simp [lowestFound, h, h4, Nat.min_eq_left (show j ≤ i by omega)]
    · simp [lowestFound, h, h4]
  · simp [lowestFound, h1, h]

/-- Blocks that hold all candidates report, together, the first that satisfies `P`. -/
theorem searchBlocks_eq (h : Answers seeding test P Q) (size left start : Nat) {cores : List State}
    (hq : ∀ s, s ∈ cores → Q s) (hsize : left ≤ size * cores.length) :
    ∃ rs, searchBlocks seeding test size left start cores = some rs ∧
      lowestFound (rs.map Prod.fst) = firstFrom P left start := by
  induction cores generalizing left start with
  | nil =>
    obtain rfl : left = 0 := by simpa using hsize
    exact ⟨[], rfl, rfl⟩
  | cons s ss ih =>
    obtain ⟨u, h1, _⟩ := searchFrom_eq h (min size left) start (hq s (by simp))
    obtain ⟨rs, h2, h3⟩ := ih (left - size) (start + size) (fun x hx => hq x (by simp [hx])) (by
      rw [List.length_cons, Nat.mul_succ] at hsize
      omega)
    refine ⟨(firstFrom P (min size left) start, u) :: rs, by simp [searchBlocks, h1, h2], ?_⟩
    rcases Nat.le_total size left with hle | hle
    · rw [Nat.min_eq_left hle]
      have := lowestFound_cons_firstFrom h3
      rwa [Nat.add_sub_cancel' hle] at this
    · rw [Nat.min_eq_right hle]
      have h0 : lowestFound (rs.map Prod.fst) = firstFrom P 0 (start + left) := by
        rw [h3, Nat.sub_eq_zero_of_le hle]
        rfl
      exact lowestFound_cons_firstFrom h0

/-- A search spread over one or more cores reports what one core alone would. -/
theorem searchSpread_eq (h : Answers seeding test P Q) (n start : Nat) {cores : List State} (hne : cores ≠ [])
    (hq : ∀ s, s ∈ cores → Q s) :
    ∃ us, searchSpread seeding test n start cores = some (firstFrom P n start, us) := by
  have hpos : 0 < cores.length := List.length_pos_iff.2 hne
  have hcover : n ≤ (n + cores.length - 1) / cores.length * cores.length := by
    have := Nat.div_add_mod (n + cores.length - 1) cores.length
    have := Nat.mod_lt (n + cores.length - 1) hpos
    rw [Nat.mul_comm]
    omega
  obtain ⟨rs, h1, h2⟩ := searchBlocks_eq h _ n start hq hcover
  exact ⟨rs.map Prod.snd, by simp [searchSpread, hne, h1, h2]⟩

end Sys2Proof.Machine
end

