-- ==== Sys2Proof/Tests/Slice0.lean ====
section
/-! SUPPORT. Checks against the spec's own vectors (spec/95_test_vectors.md, cited as V<n>, and the rules' examples), one step
each on small states, and for every obligation with hypotheses a witness that meets them. -/

namespace Sys2Proof.Tests

open Sys2Proof.Machine

/-- A seeded core at the given cursor and byte position; its array is all ones. -/
def liveAt (idx : BitVec 10) (ksn : BitVec 3) : State :=
  { State.reset with mt := Vector.replicate 624 1, valid := true, idx := idx, ksn := ksn, ksw := 0x8C7F0AAC }

/-- A core right after `SEED 0`. -/
def seeded0 : State := { State.reset with mt := seedExpand 0, valid := true }

/-- A reset core with `n` words loaded. -/
def loaded (n : BitVec 10) : State := { State.reset with lb := Vector.replicate 624 5, lcnt := n }

/-- A core whose FATAL bit is set (V42). -/
def dead : State := { liveAt 625 2 with fatal := true }

/-- The state a result goes on with. -/
def after : Result → Option State
  | .next t => some t
  | .fault _ => none
  | .refused _ => none

/-- The last response a result has delivered. -/
def answer (r : Result) : Option Response := (after r).bind fun t => t.responses.getLast?

/-- One step with this command word offered to the state. -/
def offered (c : Command) (s : State) : Result := step (s.withFetchWord 40 c.toNat)

/-! ### Well-formedness: each check refuses an ill-formed argument (V41) -/

theorem test_wellformed_z_refuses_one : wellFormedArg .extract 1 = false := by decide
theorem test_wellformed_h_refuses_bit16 : wellFormedArg .seed16 0x00010000 = false := by decide
theorem test_wellformed_b_refuses_bit8 : wellFormedArg .xorb 0x100 = false := by decide
theorem test_wellformed_accepts_nearest :
    wellFormedArg .extract 0 ∧ wellFormedArg .seed16 0xFFFF ∧ wellFormedArg .xorb 0xFF ∧ wellFormedArg .seed 0xFFFFFFFF := by decide
theorem test_operand_must_fit :
    operandFits .h (some 0x10000) = false ∧ operandFits .b (some 0x100) = false ∧ operandFits .w (some 0x100000000) = false ∧
    operandFits .z (some 0) = false ∧ operandFits .w none = false := by decide

/-! ### Decoding: words written out from R72 and R78 (eight bits of OP, then ARG) -/

theorem test_decode_nop : decode 0b0000000000000000000000000000000000000000#40 = .ok .nop := by decide
theorem test_decode_seed : decode 0b0000000100000000000000000000000000101010#40 = .ok (.seed 42) := by decide
theorem test_decode_seed16 : decode 0b0000001000000000000000001011111011101111#40 = .ok (.seed16 0xBEEF) := by decide
theorem test_decode_extract : decode 0b0000001100000000000000000000000000000000#40 = .ok .extract := by decide
theorem test_decode_nextbyte : decode 0b0000010000000000000000000000000000000000#40 = .ok .nextbyte := by decide
theorem test_decode_xorb : decode 0b0000010100000000000000000000000001011001#40 = .ok (.xorb 0x59) := by decide
theorem test_decode_byteiter : decode 0b0000011000000000000000000000000000000000#40 = .ok .byteiter := by decide
theorem test_decode_temper : decode 0b0000100000010010001101000101011001111000#40 = .ok (.temper 0x12345678) := by decide
theorem test_decode_untemper : decode 0b0000100110000000000000000000000000000001#40 = .ok (.untemper 0x80000001) := by decide
theorem test_decode_ldbegin : decode 0b0001000000000000000000000000000000000000#40 = .ok .ldbegin := by decide
theorem test_decode_ldraw : decode 0b0001000100000000000000000000000000000011#40 = .ok (.ldraw 3) := by decide
theorem test_decode_ldobs : decode 0b0001001001011111111000011101110001100110#40 = .ok (.ldobs 0x5FE1DC66) := by decide
theorem test_decode_ldcommit : decode 0b0001001100000000000000000000000000000000#40 = .ok .ldcommit := by decide
theorem test_decode_rdstat : decode 0b0010000000000000000000000000000000000000#40 = .ok .rdstat := by decide
theorem test_decode_clrerr : decode 0b0010000100000000000000000000000000000000#40 = .ok .clrerr := by decide

/-- V41. -/
theorem test_decode_rejects_by_name :
    decode 0x0700000000 = .error (.unlistedOpcode 0x07) ∧ decode 0xFF00000000 = .error (.unlistedOpcode 0xFF) ∧
    decode 0x0300000001 = .error (.nonzeroMustBeZero .extract 1) ∧
    decode 0x0200010000 = .error (.nonzeroMustBeZero .seed16 0x10000) ∧
    decode 0x0500000100 = .error (.nonzeroMustBeZero .xorb 0x100) ∧
    decode 0x2000000001 = .error (.nonzeroMustBeZero .rdstat 1) := by decide

/-- P2 of spec/95: `{0x12, o}`, last `0x1240386559`. -/
theorem test_encode_ldobs : encode (.ldobs 0x40386559) = 0x1240386559#40 := by decide

/-! ### The internal functions -/

/-- V6: seed 0xFFFFFFFF, MT[1]; V3: seed 0, MT[3]. -/
theorem test_seed_expand :
    wordAt (seedExpand 0xFFFFFFFF) 1 = 0x4FE1DA6D#32 ∧ wordAt (seedExpand 0) 3 = 0x714ACB41#32 := by decide +kernel

/-- V3: seed 0, the last word. -/
theorem test_seed_expand_last : wordAt (seedExpand 0) 623 = 0x6B1A1930#32 := by decide +kernel

/-- R115: seed 0, the first two words of the first twist. -/
theorem test_twist_first_words :
    wordAt (twist (seedExpand 0)) 0 = 0x91A10D12#32 ∧ wordAt (twist (seedExpand 0)) 1 = 0x412EEC03#32 := by decide +kernel

/-! ### One step of each command -/

/-- V46. -/
theorem test_nop : answer (offered 0x0000000000 State.reset) = some ⟨.ok, 0⟩ := by decide

/-- R101. -/
theorem test_seed_status :
    (after (exec (.seed 0) { liveAt 3 2 with lcnt := 7 })).map (fun t => (t.idx, t.ksn, t.valid, t.lcnt)) =
      some (624#10, 0#3, true, 7#10) := by decide

/-- V8: `SEED16 0xBEEF`, MT[1]. -/
theorem test_seed16_word : (after (exec (.seed16 0xBEEF) State.reset)).map (fun t => wordAt t.mt 1) = some 0x73023B4C#32 := by
  decide +kernel

/-- V1: the first output of seed 0 is 2357136044. -/
theorem test_extract_reference : answer (exec .extract seeded0) = some ⟨.ok, 2357136044#32⟩ := by decide +kernel

/-- V40: from reset. -/
theorem test_extract_unseeded : answer (offered 0x0300000000 State.reset) = some ⟨.errUnseeded, 0⟩ := by decide

/-- R29: with KSN = 3 the byte is KSW[23:16] (V27: 0x7F). -/
theorem test_nextbyte_second : answer (exec .nextbyte (liveAt 1 3)) = some ⟨.ok, 0x7F⟩ := by decide

/-- V25: the first byte of seed 0. -/
theorem test_nextbyte_first : answer (exec .nextbyte seeded0) = some ⟨.ok, 0x8C⟩ := by decide +kernel

/-- R152: the third byte of "Hi!" under seed 0: 0x21 with keystream byte 0x0A (KSN = 2). -/
theorem test_xorb_third : answer (exec (.xorb 0x21) (liveAt 1 2)) = some ⟨.ok, 0x2B⟩ := by decide

/-- R152: the first byte of "Hi!" under seed 0, and KSN after it. -/
theorem test_xorb_first :
    (after (exec (.xorb 0x48) seeded0)).map (fun t => (t.responses, t.ksn, t.idx)) =
      some ([⟨.ok, 0xC4⟩], 3#3, 1#10) := by decide +kernel

/-- R153. -/
theorem test_byteiter : (after (exec .byteiter (liveAt 1 3))).map (fun t => (t.ksn, t.idx)) = some (0#3, 1#10) := by decide

/-- V21 and V20. -/
theorem test_temper : answer (exec (.temper 0x12345678) State.reset) = some ⟨.ok, 0x2B7E4A2D⟩ := by decide
theorem test_temper_top : answer (exec (.temper 0x80000000) State.reset) = some ⟨.ok, 0x88102204⟩ := by decide

/-- V21 and V20. -/
theorem test_untemper : answer (exec (.untemper 0x2B7E4A2D) State.reset) = some ⟨.ok, 0x12345678⟩ := by decide +kernel
theorem test_untemper_one : answer (exec (.untemper 1) State.reset) = some ⟨.ok, 0x102244C9⟩ := by decide +kernel

/-- R140. -/
theorem test_ldbegin : (after (exec .ldbegin (loaded 3))).map State.lcnt = some 0#10 := by decide

/-- R141: a word stored, and a word too many. -/
theorem test_ldraw :
    (after (exec (.ldraw 0x91A10D12) (loaded 0))).map (fun t => (wordAt t.lb 0, wordAt t.lb 1, t.lcnt)) =
      some (0x91A10D12#32, 5#32, 1#10) := by decide +kernel
theorem test_ldraw_too_many : (after (exec (.ldraw 1) (loaded 624))).map State.lcnt = some 625#10 := by decide

/-- R142. -/
theorem test_ldobs :
    (after (exec (.ldobs 0x8C7F0AAC) (loaded 0))).map (fun t => (wordAt t.lb 0, t.lcnt)) = some (0x91A10D12#32, 1#10) := by
  decide +kernel

/-- V34: 623 words and 625 words. -/
theorem test_ldcommit_short :
    answer (exec .ldcommit (loaded 623)) = some ⟨.errInvalidStateLength, 0x26F⟩ ∧
    answer (exec .ldcommit (loaded 625)) = some ⟨.errInvalidStateLength, 0x271⟩ := by decide

/-- R143. -/
theorem test_ldcommit_full :
    (after (exec .ldcommit (loaded 624))).map (fun t => (wordAt t.mt 623, t.idx, t.valid, t.lcnt, t.eLen)) =
      some (5#32, 624#10, true, 0#10, false) := by decide +kernel

/-- V45: after reset, and three words into a load. -/
theorem test_rdstat_reset :
    answer (offered 0x2000000000 State.reset) = some ⟨.ok, 0x00000270⟩ ∧
    answer (exec .rdstat (loaded 3)) = some ⟨.ok, 0x00006270⟩ := by decide

/-- V42: RDSTAT under FATAL (KSN = 0 there), every other word refused, the illegal one too. -/
theorem test_rdstat_fatal : answer (offered 0x2000000000 { dead with ksn := 0 }) = some ⟨.ok, 0x11000271⟩ := by decide
theorem test_fatal_refuses :
    answer (offered 0x0100000000 dead) = some ⟨.errFatal, 0⟩ ∧ answer (offered 0x2100000000 dead) = some ⟨.errFatal, 0⟩ ∧
    answer (offered 0x0700000000 dead) = some ⟨.errFatal, 0⟩ := by decide

/-- V42: the broken cursor, seen by EXTRACT but not by a NEXTBYTE with held bytes. -/
theorem test_broken_cursor :
    (after (exec .extract (liveAt 625 2))).map (fun t => (t.responses, t.fatal, t.idx)) = some ([⟨.errFatal, 0⟩], true, 625#10) ∧
    answer (exec .nextbyte (liveAt 625 2)) = some ⟨.ok, 0x0A⟩ := by decide

/-- R172: V45's word with all three bits set, then cleared. -/
theorem test_clrerr :
    statusWord { State.reset with eLen := true, eUns := true, eIll := true } = 0x0E000270 ∧
    (after (exec .clrerr { State.reset with eLen := true, eUns := true, eIll := true })).map statusWord = some 0x00000270 := by
  decide

/-- V41: an illegal word. -/
theorem test_illegal_word :
    (after (offered 0x0700000000 State.reset)).map (fun t => (t.responses, statusWord t)) =
      some ([⟨.errIllegalCommand, 0⟩], 0x08000270) := by decide

/-- R73, R74: the response word. -/
theorem test_response_word : responseWord ⟨.errFatal, 0⟩ = 0xF00000000#36 ∧ responseWord ⟨.ok, 0x8C7F0AAC⟩ = 0x08C7F0AAC#36 := by
  decide

/-- R82: assembling. -/
theorem test_assemble :
    assemble ⟨"SEED16", some 0xBEEF⟩ = some 0x020000BEEF ∧ assemble ⟨"SEED16", some 0x10000⟩ = none ∧
    assemble ⟨"EXTRACT", some 0⟩ = none := by decide

/-- R162 and V26: one byte, `0xC4` under seed 0 is "H" (0x48). -/
theorem test_window_search_hit :
    (seedSearchWindow 0 0 [0xC4] [0x48] State.reset).map Prod.fst = some (.found 0) := by decide +kernel

/-- R164: the lowest of what two cores found. -/
theorem test_lowest_found : lowestFound [.notFound, .found 9, .found 4] = .found 4 := by decide

/-- R163: a core that refuses is not a search that found nothing, nor one that found a key for all-zero plaintext. -/
theorem test_search_failed :
    (seedSearch16 [0, 0] [1, 2] dead).map Prod.fst = some (.failed ⟨.errFatal, 0⟩) ∧
    (seedSearchWindow 3 5 [1, 2] [0, 0] dead).map Prod.fst = some (.failed ⟨.errFatal, 0⟩) := by decide

/-- R83: a refused seeding is reported, not taken for an empty ciphertext. -/
theorem test_encrypt_refused :
    (encryptWith (.seed 0) [1] dead).map Prod.fst = some (.error ⟨.errFatal, 0⟩) ∧
    (encryptWith (.seed 0) [] State.reset).map Prod.fst = some (.ok []) := by decide

/-- R145, R181: a capture from an unseeded core yields no words. -/
theorem test_capture_refused :
    (drawWords 2 State.reset).map Prod.fst = some (.error ⟨.errUnseeded, 0⟩) := by decide

/-- R164: blocks that cover every candidate, two cores and three seconds; with no core there is no search. -/
theorem test_window_search_parallel :
    (seedSearchWindowParallel 4294967294 4294967296 [0xC4] [0x48] [State.reset, seeded0]).map Prod.fst =
      some (.found 4294967296) ∧
    seedSearchWindowParallel 0 9 [0xC4] [0x48] [] = none := by decide +kernel

/-- R75, R7: at an illegal KSN the byte is no free value. -/
theorem test_nextbyte_illegal_ksn : answer (exec .nextbyte (liveAt 5 7)) = some ⟨.ok, 0⟩ := by decide

/-- R70, R73: RDSTAT performed at the pins of a reset core offers `0:00000270`. -/
theorem test_pins_rdstat : (performCommand 0x2000000000 ClockedCore.reset).phase = .answering 0x000000270 := by decide

/-- R200: an edge with `rst = 1` abandons the offered response. -/
theorem test_pins_reset :
    let k := clockEdge ⟨true, false, 0, true⟩ { ClockedCore.reset with phase := .answering 5 }
    k.phase = .idle ∧ k.delivered = [] := by decide

/-! ### Witnesses: states and operands that meet the hypotheses of each obligation -/

theorem witness_DecodeOfEncode : Instr.wellFormed (.seed16 0xFFFF) = true ∧ Instr.wellFormed (.xorb 0xFF) = true := by decide

theorem witness_EncodeOfDecode : decode 0x05000000FF = .ok (.xorb 0xFF) := by decide

theorem witness_OpcodeMapDecidesDecoding :
    ∃ r, r ∈ opcodeMap ∧ selects 0x020000FFFF r = true := ⟨⟨.seed16, 0x0200000000, 0xFFFFFF0000⟩, by decide, by decide⟩

theorem witness_AssemblerEmitsOnlyLegalWords :
    assemble ⟨"XORB", some 255⟩ = some 0x05000000FF ∧ assemble ⟨"XORB", some 256⟩ = none ∧ formatOf .xorb = .b ∧
    assemble ⟨"SEED16", some 65535⟩ = some 0x020000FFFF ∧ assemble ⟨"SEED16", some 65536⟩ = none ∧ formatOf .seed16 = .h ∧
    assemble ⟨"LDRAW", some 4294967295⟩ = some 0x11FFFFFFFF ∧ assemble ⟨"LDRAW", some 4294967296⟩ = none ∧
    formatOf .ldraw = .w ∧ assemble ⟨"CLRERR", none⟩ = some 0x2100000000 ∧ formatOf .clrerr = .z ∧
    assemble ⟨"TEMPER", none⟩ = none := by decide

theorem witness_StepRunsTheDecodedCommand :
    ({ State.reset with inputs := [.command 0x2100000000] } : State).inputs = .command 0x2100000000 :: [] ∧
    decode 0x2100000000 = .ok .clrerr := ⟨rfl, by decide⟩

theorem witness_EveryCommandIsAnsweredOnce :
    ({ dead with inputs := [.command 0xFFFFFFFFFF] } : State).inputs = .command 0xFFFFFFFFFF :: [] := rfl

theorem witness_IllegalWordSetsEIll :
    ({ State.reset with inputs := [.command 0x0500000100] } : State).inputs = .command 0x0500000100 :: [] ∧
    decode 0x0500000100 = .error (.nonzeroMustBeZero .xorb 0x100) ∧ State.reset.fatal = false := ⟨rfl, by decide, rfl⟩

theorem witness_FatalRefusesAllButRdstat :
    ({ dead with inputs := [.command 0x2000000001] } : State).inputs = .command 0x2000000001 :: [] ∧
    ({ dead with inputs := [.command 0x2000000000] } : State).inputs = .command 0x2000000000 :: [] ∧
    dead.fatal = true ∧ 0x2000000001#40 ≠ 0x2000000000#40 := ⟨rfl, rfl, rfl, by decide⟩

theorem witness_NoInputChangesNothing : State.reset.inputs = [] := rfl

theorem witness_ResetAbandonsTheCommandInFlight :
    ({ dead with inputs := [.reset] } : State).inputs = .reset :: [] ∧
    ({ dead with inputs := [.commandThenReset 0] } : State).inputs = .commandThenReset 0 :: [] := ⟨rfl, rfl⟩

/-- For SeedMakesAFreshGenerator, Seed16IsSeedOfTheZeroExtendedKey, TemperAnswersTheFourSteps, UntemperAnswersTheRawWord,
ByteiterDropsHeldBytes, LdbeginClearsTheCount, NopAnswersOk and ClrerrClearsTheStickyBits: a state for each clause. -/
theorem witness_live_and_fatal : State.reset.fatal = false ∧ dead.fatal = true := ⟨rfl, rfl⟩

theorem witness_SeedFrame : (∃ t, exec (.seed 1) State.reset = .next t) ∧ ∃ t, exec (.seed16 1) dead = .next t :=
  ⟨⟨_, rfl⟩, ⟨_, rfl⟩⟩

theorem witness_SeedExpandFollowsTheRecurrence : (1 ≤ 1 ∧ 1 < 624) ∧ (1 ≤ 623 ∧ 623 < 624) := by decide

/-- The boundary indices of the three clauses. -/
theorem witness_TwistReadsOldAndNewWords : 226 ≤ 226 ∧ (227 ≤ 227 ∧ 227 ≤ 622) ∧ (227 ≤ 622 ∧ 622 ≤ 622) := by decide

theorem witness_RawWordsFollowOneRecurrence : (0 : Nat) < 624 ∧ (623 : Nat) < 624 := by decide

theorem witness_LowBitsOfWordZeroAreDead :
    ∃ a b : Words, (∀ i, 1 ≤ i → i < 624 → wordAt a i = wordAt b i) ∧ (wordAt a 0).getLsbD 31 = (wordAt b 0).getLsbD 31 ∧
      wordAt a 0 ≠ wordAt b 0 := by
  refine ⟨setWord (Vector.replicate 624 0) 0 1, Vector.replicate 624 0, fun i h1 h2 => ?_, by decide, by decide⟩
  rw [wordAt_setWord _ _ (by decide) h2, if_neg (by omega)]

theorem witness_PureCommandsFrame :
    (∃ t, exec .nop State.reset = .next t) ∧ (∃ t, exec (.temper 1) State.reset = .next t) ∧
    (∃ t, exec (.untemper 1) State.reset = .next t) ∧ ∃ t, exec .rdstat dead = .next t :=
  ⟨⟨_, rfl⟩, ⟨_, rfl⟩, ⟨_, rfl⟩, ⟨_, rfl⟩⟩

theorem witness_ExtractAnswersTheNextWord :
    (liveAt 623 0).fatal = false ∧ (liveAt 623 0).valid = true ∧ (liveAt 623 0).idx.toNat < 624 ∧ (liveAt 624 0).idx = 624#10 ∧
    dead.fatal = true := by decide

theorem witness_UnseededDrawSetsEUns : State.reset.fatal = false ∧ State.reset.valid = false := ⟨rfl, rfl⟩

theorem witness_BrokenCursorSetsFatal :
    (liveAt 625 0).ksn = 0#3 ∧ (liveAt 625 0).fatal = false ∧ (liveAt 625 0).valid = true ∧ 624 < (liveAt 625 0).idx.toNat := by
  decide

theorem witness_ExtractFrame :
    (∃ t, exec .extract (liveAt 5 1) = .next t) ∧ (liveAt 5 1).valid = true ∧ (liveAt 5 1).idx.toNat ≤ 624 :=
  ⟨⟨_, rfl⟩, rfl, by decide⟩

theorem witness_NextbyteDeliversTheNextByte :
    (1 ≤ (liveAt 5 1).ksn.toNat ∧ (liveAt 5 4).ksn.toNat ≤ 4) ∧ (liveAt 5 1).fatal = false ∧ (liveAt 5 1).valid = true ∧
    ((liveAt 0 0).ksn = 0#3 ∧ (liveAt 0 0).idx.toNat < 624) ∧ (liveAt 624 0).ksn = 0#3 ∧ (liveAt 624 0).idx = 624#10 := by decide

theorem witness_XorbXorsTheNextByte :
    (liveAt 7 0).fatal = false ∧ (liveAt 7 0).valid = true ∧ ((liveAt 7 0).ksn = 0#3 → (liveAt 7 0).idx.toNat ≤ 624) := by decide

theorem witness_FourBytesSpellOneWord :
    (liveAt 624 0).fatal = false ∧ (liveAt 624 0).valid = true ∧ (liveAt 624 0).ksn = 0#3 ∧ (liveAt 624 0).idx.toNat ≤ 624 := by
  decide

theorem witness_HeldBytesSurviveAnExtract :
    (liveAt 624 4).fatal = false ∧ (liveAt 624 4).valid = true ∧ 1 ≤ (liveAt 624 4).ksn.toNat ∧ (liveAt 624 4).ksn.toNat ≤ 4 ∧
    (liveAt 624 4).idx.toNat ≤ 624 := by decide

theorem witness_ByteDrawFrame :
    (∃ t, exec .nextbyte (liveAt 5 1) = .next t) ∧ (∃ t, exec (.xorb 9) (liveAt 5 1) = .next t) ∧ (liveAt 5 1).ksn ≠ 0#3 ∧
    (liveAt 5 1).valid = true := ⟨⟨_, rfl⟩, ⟨_, rfl⟩, by decide, rfl⟩

theorem witness_EncryptIsXorWithTheKeystream : State.reset.fatal = false ∧ dead.fatal = true ∧ ([0x59, 0x45] : List Byte)[1]? = some 0x45 := by
  decide

theorem witness_EncryptIsSelfInverse :
    (∃ k, Instr.seed16 0xBEEF = .seed16 k) ∧ (∃ k, Instr.seed 7 = .seed k) ∧ State.reset.fatal = false ∧
    (liveAt 3 2).fatal = false := ⟨⟨_, rfl⟩, ⟨_, rfl⟩, rfl, rfl⟩

theorem witness_LdrawAppendsOneWord :
    (loaded 623).fatal = false ∧ (loaded 623).lcnt.toNat < 624 ∧ 624 ≤ (loaded 624).lcnt.toNat ∧ dead.fatal = true ∧
    (0 : Nat) ≠ (loaded 623).lcnt.toNat := by decide

theorem witness_LdobsAppendsTheUntemperedWord :
    (loaded 0).fatal = false ∧ (loaded 0).lcnt.toNat < 624 ∧ 0x2B7E4A2D#32 = temper 0x12345678 := by decide

theorem witness_LdcommitInstallsExactly624Words :
    (loaded 624).fatal = false ∧ (loaded 624).lcnt = 624#10 ∧ (loaded 625).lcnt ≠ 624#10 ∧ (loaded 623).lcnt ≠ 624#10 := by decide

theorem witness_SmallWritersFrame :
    (∃ t, exec .ldbegin (loaded 3) = .next t) ∧ (∃ t, exec (.ldraw 1) (loaded 3) = .next t) ∧
    (∃ t, exec (.ldobs 1) (loaded 3) = .next t) ∧ (∃ t, exec .byteiter (loaded 3) = .next t) ∧
    ∃ t, exec .clrerr (loaded 3) = .next t := ⟨⟨_, rfl⟩, ⟨_, rfl⟩, ⟨_, rfl⟩, ⟨_, rfl⟩, ⟨_, rfl⟩⟩

theorem witness_LdcommitFrame :
    (∃ t, exec .ldcommit (loaded 624) = .next t) ∧ ∃ t, exec .ldcommit (loaded 0) = .next t := ⟨⟨_, rfl⟩, ⟨_, rfl⟩⟩

theorem witness_FromStateNeedsExactly624Words :
    State.reset.fatal = false ∧ (List.replicate 624 (1 : Word)).length = 624 ∧ (List.replicate 625 (1 : Word)).length ≠ 624 := by
  refine ⟨rfl, List.length_replicate, ?_⟩
  rw [List.length_replicate]
  decide

theorem witness_AlignedCloneEqualsTheOriginal :
    (liveAt 624 0).fatal = false ∧ (liveAt 624 0).valid = true ∧ (liveAt 624 0).idx = 624#10 ∧ State.reset.fatal = false := by decide

theorem witness_AnyConsecutiveWindowClones :
    (liveAt 227 2).fatal = false ∧ (liveAt 227 2).valid = true ∧ (liveAt 227 2).idx.toNat ≤ 624 ∧ State.reset.fatal = false := by
  decide

/-- The invariant holds of a live core that steps. -/
theorem witness_StepKeepsTheInvariant : CoreInv (liveAt 624 4) ∧ ∃ t, step (liveAt 624 4) = .next t :=
  ⟨⟨by decide, by decide, by decide, by decide, fun _ => rfl, rfl⟩, ⟨_, rfl⟩⟩

/-- Two different unseeded cores that agree on what is readable, and one of them steps. -/
theorem witness_UnreadableWordsNeverMatter :
    AgreeOnReadable { State.reset with mt := Vector.replicate 624 1 } { State.reset with mt := Vector.replicate 624 2 } ∧
    ∃ t, step { State.reset with mt := Vector.replicate 624 1 } = .next t :=
  ⟨⟨rfl, rfl, rfl, rfl, rfl, rfl, rfl, rfl, rfl, rfl, fun h => (Bool.noConfusion h), fun _ => rfl, fun _ _ _ => rfl⟩,
    ⟨_, rfl⟩⟩

theorem witness_FlagsChangeOnlyByTheirCommands :
    (∃ t, exec (.seed 0) State.reset = .next t ∧ State.reset.valid = false ∧ t.valid = true) ∧
    (∃ t, exec .ldcommit (loaded 3) = .next t ∧ (loaded 3).eLen = false ∧ t.eLen = true) ∧
    (∃ t, exec .extract State.reset = .next t ∧ State.reset.eUns = false ∧ t.eUns = true) ∧
    (∃ t, exec .extract (liveAt 625 0) = .next t ∧ (liveAt 625 0).fatal = false ∧ t.fatal = true) :=
  ⟨⟨_, rfl, rfl, rfl⟩, ⟨_, rfl, rfl, rfl⟩, ⟨_, rfl, rfl, rfl⟩, ⟨_, rfl, rfl, rfl⟩⟩

/-- A commit that changes MT, and a twist that does. -/
theorem witness_StateArrayHasFewWriters :
    (∃ t, exec .ldcommit { loaded 624 with mt := Vector.replicate 624 1 } = .next t ∧ t.mt ≠ Vector.replicate 624 1) ∧
    (∃ t, exec .extract (liveAt 624 0) = .next t ∧ t.mt ≠ (liveAt 624 0).mt) := by
  refine ⟨⟨_, rfl, fun h => ?_⟩, ⟨_, rfl, fun h => ?_⟩⟩
  · exact absurd (congrArg (fun a => wordAt a 0) h) (by decide +kernel)
  · exact absurd (congrArg (fun a => wordAt a 0) h) (by decide +kernel)

theorem witness_SeedSearchFindsTheLowestKey :
    State.reset.fatal = false ∧ ([0x41] : List Byte).length = ([0x06] : List Byte).length ∧ 1 ≤ ([0x41] : List Byte).length ∧
    [State.reset] ≠ [] ∧ (∀ c, c ∈ [State.reset] → c.fatal = false) ∧ dead.fatal = true := by
  refine ⟨rfl, rfl, by decide, List.cons_ne_nil _ _, fun c hc => ?_, rfl⟩
  rw [List.mem_singleton.1 hc]
  rfl

theorem witness_WindowSearchFindsTheEarliestSecond :
    State.reset.fatal = false ∧ ([0x48] : List Byte).length ≤ ([0xC4] : List Byte).length ∧
    [State.reset] ≠ [] ∧ (∀ c, c ∈ [State.reset] → c.fatal = false) ∧ dead.fatal = true ∧ 0 ≤ 0 := by
  refine ⟨rfl, by decide, List.cons_ne_nil _ _, fun c hc => ?_, rfl, Nat.le_refl 0⟩
  rw [List.mem_singleton.1 hc]
  rfl

theorem witness_CoresShareNothing : 1 < [State.reset, State.reset].length := by decide

theorem witness_HandshakeHoldsAtThePins :
    ({ ClockedCore.reset with phase := .answering 0 } : ClockedCore).phase ≠ .idle ∧
    (⟨true, false, 0, false⟩ : PinsIn).rst = true ∧ (⟨false, false, 0, true⟩ : PinsIn).rst = false := by decide

/-- A ready core, a command offered, and as many further cycles as the free latency asks for. -/
theorem witness_AcceptedCommandIsAnswered :
    ∃ (p : PinsIn) (ps : List PinsIn), (ClockedCore.reset.phase = .idle ∧ p.rst = false) ∧
      (outputPins ClockedCore.reset p).cmdReady = true ∧ p.cmdValid = true ∧
      (∀ q, q ∈ ps → q.rst = false) ∧ ps.length = Config.extraCycles ClockedCore.reset.accepted := by
  refine ⟨⟨false, true, 0, true⟩, List.replicate (Config.extraCycles 0) ⟨false, false, 0, true⟩, ⟨rfl, rfl⟩, rfl, rfl, ?_, ?_⟩
  · intro q hq
    rw [(List.mem_replicate.1 hq).2]
  · simp [ClockedCore.reset]

end Sys2Proof.Tests
end

/-! SUPPORT. The statements about the state (spec/10_state.md). What each command does to the registers is said once (`Effect`):
the invariant of R35, the flags of R27 and the writers of MT (R21) are read off it. That two cores agree on what is readable
(R33) is shown operation by operation. -/

namespace Sys2Proof

open Sys2Proof.Machine

/-! ### Drawing: the byte commands as maps over `extract` (R123, R150 to R152) -/

theorem nextByte_of_held {s : State} (h : s.ksn ≠ 0#3) : nextByte s = .ok (takeByte s) := by
  simp [nextByte, h]

theorem nextByte_of_none_held {s : State} (h : s.ksn = 0#3) :
    nextByte s = (extract s).map fun p => takeByte { p.2 with ksw := p.1, ksn := 4#3 } := by
  cases he : extract s <;> simp [nextByte, h, he, Except.map]

theorem drawByte_eq_map (s : State) : drawByte s = (nextByte s).map fun p => (zextByte p.1, p.2) := by
  cases h : nextByte s <;> simp [drawByte, h, Except.map]

theorem drawByteXor_eq_map (d : Byte) (s : State) :
    drawByteXor d s = (nextByte s).map fun p => (zextByte (d ^^^ p.1), p.2) := by
  cases h : nextByte s <;> simp [drawByteXor, h, Except.map]

theorem extract_of_lt {s : State} (h : s.idx.toNat < 624) : extract s = .ok (takeWord s) := by
  obtain ⟨hi, -⟩ | ⟨hi, -⟩ | ⟨-, he⟩ := extract_cases s
  · omega
  · omega
  · exact he

theorem extract_of_eq {s : State} (h : s.idx = 624#10) : extract s = .ok (takeWord (twistState s)) := by
  simp [extract, twistIfDue, h]

/-- `zext_32` of a key puts 16 zero bits above it (R102). -/
theorem zextKey_eq_append (k : BitVec 16) : zextKey k = 0#16 ++ k := BitVec.setWidth_eq_append (by decide)

/-- What a draw that succeeds leaves: the cursor moves within 1..624, MT changes by a twist at 624 only, KSN stays legal, and
nothing else but KSW is written (R113, R123, R150). -/
structure Drawn (s t : State) : Prop where
  array  : t.mt = s.mt ∨ (s.idx = 624#10 ∧ t.mt = twist s.mt)
  cursor : t.idx = s.idx ∨ (1 ≤ t.idx.toNat ∧ t.idx.toNat ≤ 624)
  held   : s.ksn.toNat ≤ 4 → t.ksn.toNat ≤ 4
  frame  : t = { s with mt := t.mt, idx := t.idx, ksw := t.ksw, ksn := t.ksn }

namespace Drawn

variable {s t : State}

theorem valid_eq (h : Drawn s t) : t.valid = s.valid := by rw [h.frame]
theorem lcnt_eq (h : Drawn s t) : t.lcnt = s.lcnt := by rw [h.frame]
theorem eLen_eq (h : Drawn s t) : t.eLen = s.eLen := by rw [h.frame]
theorem eUns_eq (h : Drawn s t) : t.eUns = s.eUns := by rw [h.frame]
theorem eIll_eq (h : Drawn s t) : t.eIll = s.eIll := by rw [h.frame]
theorem fatal_eq (h : Drawn s t) : t.fatal = s.fatal := by rw [h.frame]

end Drawn

/-- The two outcomes of a draw (R123, R183): the broken cursor, or a value and a state that the draw leaves. -/
inductive DrawOutcome (s : State) {α : Type} : Except CoreError (α × State) → Prop where
  | broken (h : 624 < s.idx.toNat) : DrawOutcome s (.error .fatalCursor)
  | drawn {p : α × State} (h : Drawn s p.2) : DrawOutcome s (.ok p)

/-- An outcome stays one under a map that keeps what a draw leaves. -/
theorem DrawOutcome.map {s : State} {α β : Type} {r : Except CoreError (α × State)} {f : α × State → β × State}
    (h : DrawOutcome s r) (hf : ∀ p, Drawn s p.2 → Drawn s (f p).2) : DrawOutcome s (r.map f) := by
  cases h with
  | broken h => exact .broken h
  | drawn h => exact .drawn (hf _ h)

/-- `takeWord` moves a cursor below 624 up by one. -/
theorem takeWord_idx_toNat {s : State} (h : s.idx.toNat < 624) : (takeWord s).2.idx.toNat = s.idx.toNat + 1 := by
  rw [takeWord_idx]
  bv_omega

/-- `takeByte` counts held bytes down. -/
theorem takeByte_ksn_le {s : State} (h : s.ksn ≠ 0#3) (h4 : s.ksn.toNat ≤ 4) : (takeByte s).2.ksn.toNat ≤ 4 := by
  rw [takeByte_ksn]
  bv_omega

theorem extract_outcome (s : State) : DrawOutcome s (extract s) := by
  obtain ⟨h, he⟩ | ⟨h, he⟩ | ⟨h, he⟩ := extract_cases s <;> rw [he]
  · exact .broken h
  · have hi : s.idx = 624#10 := BitVec.eq_of_toNat_eq h
    exact .drawn ⟨.inr ⟨hi, rfl⟩, .inr (by simp), id, rfl⟩
  · have hc := takeWord_idx_toNat h
    exact .drawn ⟨.inl rfl, .inr (by omega), id, rfl⟩

theorem nextByte_outcome (s : State) : DrawOutcome s (nextByte s) := by
  by_cases h : s.ksn = 0#3
  · rw [nextByte_of_none_held h]
    refine (extract_outcome s).map fun p hp => ⟨hp.array, hp.cursor, fun _ => by simp, ?_⟩
    rw [hp.frame]
    rfl
  · rw [nextByte_of_held h]
    exact .drawn ⟨.inl rfl, .inl rfl, takeByte_ksn_le h, rfl⟩

theorem drawByte_outcome (s : State) : DrawOutcome s (drawByte s) := by
  rw [drawByte_eq_map]
  exact (nextByte_outcome s).map fun _ hp => hp

theorem drawByteXor_outcome (d : Byte) (s : State) : DrawOutcome s (drawByteXor d s) := by
  rw [drawByteXor_eq_map]
  exact (nextByte_outcome s).map fun _ hp => hp

/-! ### What a command does -/

/-- The commands that draw from the generator (R181). -/
def Draws (i : Instr) : Prop := i = .extract ∨ i = .nextbyte ∨ ∃ d, i = .xorb d

/-- The commands that only answer (R54). -/
def OnlyAnswers (i : Instr) : Prop := i = .nop ∨ (∃ v, i = .temper v) ∨ (∃ v, i = .untemper v) ∨ i = .rdstat

/-- All that a command can do to a core: refused under FATAL (R75), or its own rule. The word that a draw or a pure command
answers is left open. -/
inductive Effect (s : State) : Instr → State → Prop where
  | refused {i} (hf : s.fatal = true) (hi : i ≠ .rdstat) : Effect s i (respond .errFatal 0#32 s)
  | answered {i} (hi : OnlyAnswers i) (d : Word) : Effect s i (respond .ok d s)
  | seeded (w : Word) (hf : s.fatal = false) : Effect s (.seed w) (respond .ok 0#32 (installGenerator (seedExpand w) s))
  | seeded16 (k : BitVec 16) (hf : s.fatal = false) :
      Effect s (.seed16 k) (respond .ok 0#32 (installGenerator (seedExpand (zextKey k)) s))
  | unseeded {i} (hi : Draws i) (hf : s.fatal = false) (hv : s.valid = false) : Effect s i (raise .unseeded 0#32 s)
  | cursorBroken {i} (hi : Draws i) (hf : s.fatal = false) (hv : s.valid = true) (hidx : 624 < s.idx.toNat) :
      Effect s i (raise .fatalCursor 0#32 s)
  | drew {i} (hi : Draws i) (hf : s.fatal = false) (hv : s.valid = true) (d : Word) {t : State} (ht : Drawn s t) :
      Effect s i (respond .ok d t)
  | bytesDropped (hf : s.fatal = false) : Effect s .byteiter (respond .ok 0#32 { s with ksn := 0#3 })
  | loadBegun (hf : s.fatal = false) : Effect s .ldbegin (respond .ok 0#32 { s with lcnt := 0#10 })
  | rawLoaded (w : Word) (hf : s.fatal = false) : Effect s (.ldraw w) (respond .ok 0#32 (appendWord w s))
  | observedLoaded (o : Word) (hf : s.fatal = false) :
      Effect s (.ldobs o) (respond .ok 0#32 (appendWord (untemper o) s))
  | committed (hf : s.fatal = false) (hl : s.lcnt = 624#10) :
      Effect s .ldcommit (respond .ok 0#32 { installGenerator s.lb s with lcnt := 0#10 })
  | badLength (hf : s.fatal = false) (hl : s.lcnt ≠ 624#10) :
      Effect s .ldcommit (raise .invalidStateLength (zextCount s.lcnt) s)
  | errorsCleared (hf : s.fatal = false) : Effect s .clrerr (respond .ok 0#32 (clearErrorBits s))

theorem unlessFatal_effect {body : State → State} {s : State} {i : Instr} (hi : i ≠ .rdstat)
    (h : s.fatal = false → Effect s i (body s)) : Effect s i (unlessFatal body s) := by
  cases hf : s.fatal with
  | true => rw [unlessFatal_of_fatal body hf]; exact .refused hf hi
  | false => rw [unlessFatal_of_not_fatal body hf]; exact h hf

theorem answerDraw_effect {draw : State → Except CoreError (Word × State)} {s : State} {i : Instr} (hi : Draws i)
    (hd : DrawOutcome s (draw s)) (hf : s.fatal = false) : Effect s i (answerDraw draw s) := by
  obtain ⟨hv, ha⟩ | ⟨hv, e, he, ha⟩ | ⟨hv, v, t, he, ha⟩ := answerDraw_cases draw s <;> rw [ha]
  · exact .unseeded hi hf hv
  · rw [he] at hd
    cases hd with
    | broken hidx => exact .cursorBroken hi hf hv hidx
  · rw [he] at hd
    cases hd with
    | drawn ht => exact .drew hi hf hv v ht

theorem commitLoad_effect {s : State} (hf : s.fatal = false) : Effect s .ldcommit (commitLoad s) := by
  obtain ⟨hl, hc⟩ | ⟨hl, hc⟩ := commitLoad_cases s <;> rw [hc]
  · exact .committed hf hl
  · exact .badLength hf hl

/-- Every command has a next state, and it is one of its effects. -/
theorem exec_answers_effect (i : Instr) (s : State) : ∃ t, exec i s = .next t ∧ Effect s i t := by
  cases i with
  | nop => exact ⟨_, rfl, unlessFatal_effect nofun fun _ => .answered (.inl rfl) _⟩
  | seed w => exact ⟨_, rfl, unlessFatal_effect nofun (.seeded w)⟩
  | seed16 k => exact ⟨_, rfl, unlessFatal_effect nofun (.seeded16 k)⟩
  | extract => exact ⟨_, rfl, unlessFatal_effect nofun (answerDraw_effect (.inl rfl) (extract_outcome s))⟩
  | nextbyte => exact ⟨_, rfl, unlessFatal_effect nofun (answerDraw_effect (.inr (.inl rfl)) (drawByte_outcome s))⟩
  | xorb d => exact ⟨_, rfl, unlessFatal_effect nofun (answerDraw_effect (.inr (.inr ⟨d, rfl⟩)) (drawByteXor_outcome d s))⟩
  | byteiter => exact ⟨_, rfl, unlessFatal_effect nofun .bytesDropped⟩
  | temper v => exact ⟨_, rfl, unlessFatal_effect nofun fun _ => .answered (.inr (.inl ⟨v, rfl⟩)) _⟩
  | untemper v => exact ⟨_, rfl, unlessFatal_effect nofun fun _ => .answered (.inr (.inr (.inl ⟨v, rfl⟩))) _⟩
  | ldbegin => exact ⟨_, rfl, unlessFatal_effect nofun .loadBegun⟩
  | ldraw w => exact ⟨_, rfl, unlessFatal_effect nofun (.rawLoaded w)⟩
  | ldobs o => exact ⟨_, rfl, unlessFatal_effect nofun (.observedLoaded o)⟩
  | ldcommit => exact ⟨_, rfl, unlessFatal_effect nofun commitLoad_effect⟩
  | rdstat => exact ⟨_, rfl, .answered (.inr (.inr (.inr rfl))) _⟩
  | clrerr => exact ⟨_, rfl, unlessFatal_effect nofun .errorsCleared⟩

theorem effect_of_exec {i : Instr} {s t : State} (h : exec i s = .next t) : Effect s i t := by
  obtain ⟨t', h', ht⟩ := exec_answers_effect i s
  rw [h] at h'
  cases h'
  exact ht

/-! ### The invariant of R35 -/

/-- The invariant speaks of registers and flags, not of the ports. -/
theorem coreInv_respond {s : State} (h : CoreInv s) (st : Status) (d : Word) : CoreInv (respond st d s) :=
  { h with }

theorem coreInv_withInputs {s : State} (h : CoreInv s) (inputs : List HostInput) : CoreInv { s with inputs := inputs } :=
  { h with }

theorem coreInv_reset : CoreInv State.reset where
  idx_pos := by decide
  idx_le := by decide
  ksn_le := by decide
  lcnt_le := by decide
  ksn_valid h := absurd rfl h
  no_fatal := rfl

/-- A newly made generator has its cursor at 624 and no held bytes (R101, R143). -/
theorem coreInv_installGenerator {s : State} (h : CoreInv s) (a : Words) : CoreInv (installGenerator a s) :=
  { h with idx_pos := by simp, idx_le := by simp, ksn_le := by simp, ksn_valid := fun h => absurd rfl h }

theorem coreInv_drawn {s t : State} (h : CoreInv s) (hv : s.valid = true) (hd : Drawn s t) : CoreInv t where
  idx_pos := by obtain hi | ⟨hi, -⟩ := hd.cursor; exacts [hi ▸ h.idx_pos, hi]
  idx_le := by obtain hi | ⟨-, hi⟩ := hd.cursor; exacts [hi ▸ h.idx_le, hi]
  ksn_le := hd.held h.ksn_le
  lcnt_le := hd.lcnt_eq ▸ h.lcnt_le
  ksn_valid _ := hd.valid_eq.trans hv
  no_fatal := hd.fatal_eq.trans h.no_fatal

theorem coreInv_dropBytes {s : State} (h : CoreInv s) : CoreInv { s with ksn := 0#3 } :=
  { h with ksn_le := by simp, ksn_valid := fun h => absurd rfl h }

theorem coreInv_setCount {s : State} (h : CoreInv s) {n : BitVec 10} (hn : n.toNat ≤ 625) : CoreInv { s with lcnt := n } :=
  { h with lcnt_le := hn }

theorem coreInv_clearErrorBits {s : State} (h : CoreInv s) : CoreInv (clearErrorBits s) :=
  { h with }

/-- Of the four errors only FatalCursor sets FATAL (R27). -/
theorem coreInv_raise {s : State} (h : CoreInv s) {e : CoreError} (he : e ≠ .fatalCursor) (info : Word) :
    CoreInv (raise e info s) := by
  cases e with
  | invalidStateLength => exact { h with lcnt_le := by simp [raise_invalidStateLength] }
  | unseeded => exact { h with }
  | illegalCommand => exact { h with }
  | fatalCursor => exact absurd rfl he

theorem coreInv_appendWord {s : State} (h : CoreInv s) (w : Word) : CoreInv (appendWord w s) := by
  obtain ⟨hl, ha⟩ | ⟨-, ha⟩ := appendWord_cases w s <;> rw [ha]
  · have hn : (s.lcnt + 1#10).toNat ≤ 625 := by bv_omega
    exact { coreInv_setCount h hn with }
  · exact coreInv_setCount h (by simp)

/-- No command leaves the invariant: the one error that sets FATAL needs a cursor above 624. -/
theorem coreInv_effect {s t : State} {i : Instr} (h : CoreInv s) (he : Effect s i t) : CoreInv t := by
  cases he with
  | refused => exact coreInv_respond h _ _
  | answered => exact coreInv_respond h _ _
  | seeded => exact coreInv_respond (coreInv_installGenerator h _) _ _
  | seeded16 => exact coreInv_respond (coreInv_installGenerator h _) _ _
  | unseeded => exact coreInv_raise h (by decide) _
  | cursorBroken _ _ _ hidx => exact absurd h.idx_le (Nat.not_le.2 hidx)
  | drew _ _ hv _ hd => exact coreInv_respond (coreInv_drawn h hv hd) _ _
  | bytesDropped => exact coreInv_respond (coreInv_dropBytes h) _ _
  | loadBegun => exact coreInv_respond (coreInv_setCount h (by simp)) _ _
  | rawLoaded => exact coreInv_respond (coreInv_appendWord h _) _ _
  | observedLoaded => exact coreInv_respond (coreInv_appendWord h _) _ _
  | committed => exact coreInv_respond (coreInv_setCount (coreInv_installGenerator h s.lb) (by simp)) _ _
  | badLength => exact coreInv_raise h (by decide) _
  | errorsCleared => exact coreInv_respond (coreInv_clearErrorBits h) _ _

/-- A word that is no command sets E_ILL at most (R182). -/
theorem coreInv_rejectWord {s : State} (h : CoreInv s) : CoreInv (rejectWord s) := by
  rw [rejectWord, unlessFatal_of_not_fatal _ h.no_fatal]
  exact coreInv_raise h (by decide) _

theorem coreInv_runCommand {s t : State} {c : Command} (h : CoreInv s) (hr : runCommand c s = .next t) : CoreInv t := by
  obtain ⟨i, -, hc⟩ | ⟨e, -, hc⟩ := runCommand_cases c s <;> rw [hc] at hr
  · exact coreInv_effect h (effect_of_exec hr)
  · cases hr
    exact coreInv_rejectWord h

/-- Settles O51. -/
theorem resetMeetsTheInvariant : Obligations.ResetMeetsTheInvariant := coreInv_reset

/-- Settles O50, along the three things a step can do: wait, run a command, reset. -/
theorem stepKeepsTheInvariant : Obligations.StepKeepsTheInvariant := by
  intro s t h hs
  obtain ⟨-, hw⟩ | ⟨c, rest, -, hc⟩ | ⟨x, rest, -, -, hr⟩ := step_cases s
  · rw [hw] at hs
    cases hs
    exact h
  · exact coreInv_runCommand (coreInv_withInputs h rest) (hc.symm.trans hs)
  · rw [hr] at hs
    cases hs
    exact { coreInv_reset with }

/-! ### The flags (R27) and the writers of MT (R21) -/

/-- How a flag moved from `a` to `b`: it stayed, or was set for a reason, or was cleared for a reason. -/
def FlagMove (setter clearer : Prop) (a b : Bool) : Prop := b = a ∨ (b = true ∧ setter) ∨ (b = false ∧ clearer)

theorem FlagMove.stays_set {setter clearer : Prop} {a b : Bool} (h : FlagMove setter clearer a b) (hc : ¬ clearer)
    (ha : a = true) : b = true := by
  obtain h | ⟨h, -⟩ | ⟨-, h⟩ := h
  · exact h.trans ha
  · exact h
  · exact absurd h hc

theorem FlagMove.was_set {setter clearer : Prop} {a b : Bool} (h : FlagMove setter clearer a b) (ha : a = false)
    (hb : b = true) : setter := by
  obtain h | ⟨-, h⟩ | ⟨h, -⟩ := h
  · exact absurd (h.symm.trans hb) (by simp [ha])
  · exact h
  · exact absurd (h.symm.trans hb) (by decide)

/-- Loading a word writes the load buffer and its count only (R141). -/
theorem appendWord_frame (w : Word) (s : State) :
    appendWord w s = { s with lb := (appendWord w s).lb, lcnt := (appendWord w s).lcnt } := by
  obtain ⟨-, h⟩ | ⟨-, h⟩ := appendWord_cases w s <;> rw [h]

@[simp] theorem appendWord_mt (w : Word) (s : State) : (appendWord w s).mt = s.mt := by rw [appendWord_frame]
@[simp] theorem appendWord_valid (w : Word) (s : State) : (appendWord w s).valid = s.valid := by rw [appendWord_frame]
@[simp] theorem appendWord_eLen (w : Word) (s : State) : (appendWord w s).eLen = s.eLen := by rw [appendWord_frame]
@[simp] theorem appendWord_eUns (w : Word) (s : State) : (appendWord w s).eUns = s.eUns := by rw [appendWord_frame]
@[simp] theorem appendWord_eIll (w : Word) (s : State) : (appendWord w s).eIll = s.eIll := by rw [appendWord_frame]
@[simp] theorem appendWord_fatal (w : Word) (s : State) : (appendWord w s).fatal = s.fatal := by rw [appendWord_frame]

theorem valid_of_effect {i : Instr} {s t : State} (h : Effect s i t) :
    FlagMove ((∃ w, i = .seed w) ∨ (∃ k, i = .seed16 k) ∨ i = .ldcommit) False s.valid t.valid := by
  cases h with
  | seeded w => exact .inr (.inl ⟨rfl, .inl ⟨w, rfl⟩⟩)
  | seeded16 k => exact .inr (.inl ⟨rfl, .inr (.inl ⟨k, rfl⟩)⟩)
  | committed => exact .inr (.inl ⟨rfl, .inr (.inr rfl)⟩)
  | drew _ _ _ _ hd => exact .inl hd.valid_eq
  | rawLoaded w => exact .inl (appendWord_valid w s)
  | observedLoaded o => exact .inl (appendWord_valid _ s)
  | _ => exact .inl rfl

theorem fatal_of_effect {i : Instr} {s t : State} (h : Effect s i t) : FlagMove (Draws i) False s.fatal t.fatal := by
  cases h with
  | cursorBroken hi => exact .inr (.inl ⟨rfl, hi⟩)
  | drew _ _ _ _ hd => exact .inl hd.fatal_eq
  | rawLoaded w => exact .inl (appendWord_fatal w s)
  | observedLoaded o => exact .inl (appendWord_fatal _ s)
  | _ => exact .inl rfl

theorem eLen_of_effect {i : Instr} {s t : State} (h : Effect s i t) :
    FlagMove (i = .ldcommit) (i = .clrerr) s.eLen t.eLen := by
  cases h with
  | badLength => exact .inr (.inl ⟨rfl, rfl⟩)
  | errorsCleared => exact .inr (.inr ⟨rfl, rfl⟩)
  | drew _ _ _ _ hd => exact .inl hd.eLen_eq
  | rawLoaded w => exact .inl (appendWord_eLen w s)
  | observedLoaded o => exact .inl (appendWord_eLen _ s)
  | _ => exact .inl rfl

theorem eUns_of_effect {i : Instr} {s t : State} (h : Effect s i t) :
    FlagMove (Draws i) (i = .clrerr) s.eUns t.eUns := by
  cases h with
  | unseeded hi => exact .inr (.inl ⟨rfl, hi⟩)
  | errorsCleared => exact .inr (.inr ⟨rfl, rfl⟩)
  | drew _ _ _ _ hd => exact .inl hd.eUns_eq
  | rawLoaded w => exact .inl (appendWord_eUns w s)
  | observedLoaded o => exact .inl (appendWord_eUns _ s)
  | _ => exact .inl rfl

theorem eIll_of_effect {i : Instr} {s t : State} (h : Effect s i t) : FlagMove False (i = .clrerr) s.eIll t.eIll := by
  cases h with
  | errorsCleared => exact .inr (.inr ⟨rfl, rfl⟩)
  | drew _ _ _ _ hd => exact .inl hd.eIll_eq
  | rawLoaded w => exact .inl (appendWord_eIll w s)
  | observedLoaded o => exact .inl (appendWord_eIll _ s)
  | _ => exact .inl rfl

/-- Settles O54, from how each flag moves. -/
theorem flagsChangeOnlyByTheirCommands : Obligations.FlagsChangeOnlyByTheirCommands := by
  intro i s t h
  have he := effect_of_exec h
  have hvalid := valid_of_effect he
  have hfatal := fatal_of_effect he
  have hlen := eLen_of_effect he
  have huns := eUns_of_effect he
  have hill := eIll_of_effect he
  exact ⟨hvalid.stays_set not_false, hfatal.stays_set not_false,
    fun hi => ⟨hlen.stays_set hi, huns.stays_set hi, hill.stays_set hi⟩,
    hvalid.was_set, hlen.was_set, huns.was_set, hfatal.was_set,
    fun ha => Bool.eq_false_iff.2 (hill.was_set ha)⟩

/-- Settles O55: every other effect leaves MT as it is. -/
theorem stateArrayHasFewWriters : Obligations.StateArrayHasFewWriters := by
  intro i s t h hne
  cases effect_of_exec h with
  | seeded w => exact .inl ⟨w, rfl, rfl⟩
  | seeded16 k => exact .inr (.inl ⟨k, rfl, congrArg seedExpand (zextKey_eq_append k)⟩)
  | drew hi _ _ _ hd =>
    obtain hmt | htwist := hd.array
    · exact absurd hmt hne
    · exact .inr (.inr (.inl ⟨hi, htwist⟩))
  | committed _ hl => exact .inr (.inr (.inr ⟨rfl, hl, rfl⟩))
  | rawLoaded w => exact absurd (appendWord_mt w s) hne
  | observedLoaded o => exact absurd (appendWord_mt _ s) hne
  | _ => exact absurd rfl hne

/-! ### Agreement of two cores on what is readable (R33) -/

/-- Two draws that deliver the same: the same error, or the same value and states that agree. -/
inductive DrawsAgree {α : Type} : Except CoreError (α × State) → Except CoreError (α × State) → Prop where
  | error (e : CoreError) : DrawsAgree (.error e) (.error e)
  | ok (v : α) {s t : State} (h : AgreeOnReadable s t) : DrawsAgree (.ok (v, s)) (.ok (v, t))

/-- Draws that agree still do under a map of the value. -/
theorem DrawsAgree.map_value {α β : Type} {r r' : Except CoreError (α × State)} (h : DrawsAgree r r') (f : α → β) :
    DrawsAgree (r.map fun p => (f p.1, p.2)) (r'.map fun p => (f p.1, p.2)) := by
  cases h with
  | error e => exact .error e
  | ok v h => exact .ok (f v) h

@[simp] theorem twistIfDue_valid (s : State) : (twistIfDue s).valid = s.valid := by
  rw [twistIfDue]
  split <;> rfl

/-- Two results of a command or a step: next states that agree. -/
inductive ResultsAgree : Result → Result → Prop where
  | next {s t : State} (h : AgreeOnReadable s t) : ResultsAgree (.next s) (.next t)

section Agreement
variable {s t : State} (h : AgreeOnReadable s t)
include h

theorem respond_agree (st : Status) (d : Word) : AgreeOnReadable (respond st d s) (respond st d t) :=
  { h with responses := congrArg (· ++ [Response.mk st d]) h.responses }

theorem withInputs_agree (inputs : List HostInput) :
    AgreeOnReadable { s with inputs := inputs } { t with inputs := inputs } :=
  { h with inputs := rfl }

theorem assertReset_agree : AgreeOnReadable (assertReset s) (assertReset t) where
  idx := rfl
  valid := rfl
  ksn := rfl
  lcnt := rfl
  eLen := rfl
  eUns := rfl
  eIll := rfl
  fatal := rfl
  inputs := h.inputs
  responses := h.responses
  mt _ := rfl
  ksw _ := rfl
  lb _ _ _ := rfl

theorem dropBytes_agree : AgreeOnReadable { s with ksn := 0#3 } { t with ksn := 0#3 } :=
  { h with ksn := rfl, ksw := fun hk => absurd rfl hk }

/-- With no word loaded, none of LB is readable. -/
theorem clearCount_agree : AgreeOnReadable { s with lcnt := 0#10 } { t with lcnt := 0#10 } :=
  { h with lcnt := rfl, lb := fun i _ hi => absurd hi (by simp) }

theorem clearErrorBits_agree : AgreeOnReadable (clearErrorBits s) (clearErrorBits t) :=
  { h with eLen := rfl, eUns := rfl, eIll := rfl }

theorem raise_agree (e : CoreError) (info : Word) : AgreeOnReadable (raise e info s) (raise e info t) := by
  cases e with
  | invalidStateLength =>
    have h' : AgreeOnReadable { s with eLen := true, lcnt := 0#10 } { t with eLen := true, lcnt := 0#10 } :=
      { clearCount_agree h with eLen := rfl }
    exact respond_agree h' _ _
  | unseeded =>
    have h' : AgreeOnReadable { s with eUns := true } { t with eUns := true } := { h with eUns := rfl }
    exact respond_agree h' _ _
  | illegalCommand =>
    have h' : AgreeOnReadable { s with eIll := true } { t with eIll := true } := { h with eIll := rfl }
    exact respond_agree h' _ _
  | fatalCursor =>
    have h' : AgreeOnReadable { s with fatal := true } { t with fatal := true } := { h with fatal := rfl }
    exact respond_agree h' _ _

/-- The array of a new generator is written whole, and no byte of KSW is held. -/
theorem installGenerator_agree (a : Words) : AgreeOnReadable (installGenerator a s) (installGenerator a t) :=
  { h with idx := rfl, ksn := rfl, valid := rfl, mt := fun _ => rfl, ksw := fun hk => absurd rfl hk }

theorem unlessFatal_agree {body : State → State} (hb : AgreeOnReadable (body s) (body t)) :
    AgreeOnReadable (unlessFatal body s) (unlessFatal body t) := by
  cases hf : s.fatal with
  | true =>
    rw [unlessFatal_of_fatal body hf, unlessFatal_of_fatal body (h.fatal.symm.trans hf)]
    exact respond_agree h _ _
  | false => rwa [unlessFatal_of_not_fatal body hf, unlessFatal_of_not_fatal body (h.fatal.symm.trans hf)]

/-- STATUS is made of registers and flags on which the cores agree. -/
theorem statusWord_agree : statusWord s = statusWord t := by
  simp only [statusWord, h.idx, h.valid, h.ksn, h.lcnt, h.eLen, h.eUns, h.eIll, h.fatal]

theorem twistState_agree : AgreeOnReadable (twistState s) (twistState t) :=
  { h with idx := rfl, mt := fun hv => congrArg twist (h.mt hv) }

/-- A seeded core's array is readable, so the word drawn is the same. -/
theorem takeWord_agree (hv : s.valid = true) : DrawsAgree (.ok (takeWord s)) (.ok (takeWord t)) := by
  have hw : (takeWord s).1 = (takeWord t).1 := by simp only [takeWord_word, h.mt hv, h.idx]
  have h' : AgreeOnReadable (takeWord s).2 (takeWord t).2 := { h with idx := congrArg (· + 1#10) h.idx }
  rw [← Prod.mk.eta (p := takeWord s), hw]
  exact .ok _ h'

theorem twistIfDue_agree : AgreeOnReadable (twistIfDue s) (twistIfDue t) := by
  by_cases hi : s.idx = 624#10
  · rw [twistIfDue, twistIfDue, if_pos hi, if_pos (h.idx.symm.trans hi)]
    exact twistState_agree h
  · rw [twistIfDue, twistIfDue, if_neg hi, if_neg (h.idx ▸ hi)]
    exact h

theorem extract_agree (hv : s.valid = true) : DrawsAgree (extract s) (extract t) := by
  by_cases hi : 624 < s.idx.toNat
  · rw [extract, extract, if_pos hi, if_pos (h.idx ▸ hi)]
    exact .error _
  · rw [extract, extract, if_neg hi, if_neg (h.idx ▸ hi)]
    exact takeWord_agree (twistIfDue_agree h) ((twistIfDue_valid s).trans hv)

/-- While bytes are held KSW is readable, so the byte is the same. -/
theorem takeByte_agree (hk : s.ksn ≠ 0#3) : DrawsAgree (.ok (takeByte s)) (.ok (takeByte t)) := by
  have hb : (takeByte s).1 = (takeByte t).1 := by simp only [takeByte_byte, h.ksw hk, h.ksn]
  have h' : AgreeOnReadable (takeByte s).2 (takeByte t).2 :=
    { h with ksn := congrArg (· - 1#3) h.ksn, ksw := fun _ => h.ksw hk }
  rw [← Prod.mk.eta (p := takeByte s), hb]
  exact .ok _ h'

theorem holdWord_agree (w : Word) : AgreeOnReadable { s with ksw := w, ksn := 4#3 } { t with ksw := w, ksn := 4#3 } :=
  { h with ksw := fun _ => rfl, ksn := rfl }

theorem nextByte_agree (hv : s.valid = true) : DrawsAgree (nextByte s) (nextByte t) := by
  by_cases hk : s.ksn = 0#3
  · rw [nextByte_of_none_held hk, nextByte_of_none_held (h.ksn.symm.trans hk)]
    generalize extract s = r, extract t = r', extract_agree h hv = hr
    cases hr with
    | error e => exact .error e
    | ok w h' => exact takeByte_agree (holdWord_agree h' w) (by simp)
  · rw [nextByte_of_held hk, nextByte_of_held (h.ksn ▸ hk)]
    exact takeByte_agree h hk

theorem drawByte_agree (hv : s.valid = true) : DrawsAgree (drawByte s) (drawByte t) := by
  rw [drawByte_eq_map, drawByte_eq_map]
  exact (nextByte_agree h hv).map_value _

theorem drawByteXor_agree (d : Byte) (hv : s.valid = true) : DrawsAgree (drawByteXor d s) (drawByteXor d t) := by
  rw [drawByteXor_eq_map, drawByteXor_eq_map]
  exact (nextByte_agree h hv).map_value fun b => zextByte (d ^^^ b)

theorem answerDraw_agree {draw : State → Except CoreError (Word × State)}
    (hd : s.valid = true → DrawsAgree (draw s) (draw t)) : AgreeOnReadable (answerDraw draw s) (answerDraw draw t) := by
  cases hv : s.valid with
  | false =>
    simp only [answerDraw, hv, ← h.valid]
    exact raise_agree h _ _
  | true =>
    simp only [answerDraw, hv, ← h.valid, if_true]
    generalize draw s = r, draw t = r', hd hv = hr
    cases hr with
    | error e => exact raise_agree h e _
    | ok v h' => exact respond_agree h' _ _

/-- The word appended becomes readable in both cores; once 624 are there, all of LB already is. -/
theorem appendWord_agree (w : Word) : AgreeOnReadable (appendWord w s) (appendWord w t) := by
  by_cases hl : s.lcnt.toNat < N
  · rw [appendWord, appendWord, ← h.lcnt, if_pos hl, if_pos hl]
    refine { h with lcnt := rfl, lb := fun i hi hlt => ?_ }
    rw [wordAt_setWord _ _ hl hi, wordAt_setWord _ _ hl hi]
    split
    · rfl
    · next hne =>
      have : i < s.lcnt.toNat := by simp only at hlt; bv_omega
      exact h.lb i hi this
  · rw [appendWord, appendWord, ← h.lcnt, if_neg hl, if_neg hl]
    exact { h with lcnt := rfl, lb := fun i hi _ => h.lb i hi (hi.trans_le (Nat.not_lt.1 hl)) }

theorem commitLoad_agree : AgreeOnReadable (commitLoad s) (commitLoad t) := by
  by_cases hl : s.lcnt = 624#10
  · have hlb : s.lb = t.lb := words_ext fun i hi => h.lb i hi (by simpa [hl] using hi)
    simp only [commitLoad, ← h.lcnt, hl, if_true, hlb]
    exact respond_agree (clearCount_agree (installGenerator_agree h _)) _ _
  · simp only [commitLoad, ← h.lcnt, hl, if_false]
    exact raise_agree h _ _

theorem exec_agree (i : Instr) : ResultsAgree (exec i s) (exec i t) := by
  cases i with
  | nop => exact .next (unlessFatal_agree h (respond_agree h _ _))
  | seed w => exact .next (unlessFatal_agree h (respond_agree (installGenerator_agree h _) _ _))
  | seed16 k => exact .next (unlessFatal_agree h (respond_agree (installGenerator_agree h _) _ _))
  | extract => exact .next (unlessFatal_agree h (answerDraw_agree h (extract_agree h)))
  | nextbyte => exact .next (unlessFatal_agree h (answerDraw_agree h (drawByte_agree h)))
  | xorb d => exact .next (unlessFatal_agree h (answerDraw_agree h (drawByteXor_agree h d)))
  | byteiter => exact .next (unlessFatal_agree h (respond_agree (dropBytes_agree h) _ _))
  | temper v => exact .next (unlessFatal_agree h (respond_agree h _ _))
  | untemper v => exact .next (unlessFatal_agree h (respond_agree h _ _))
  | ldbegin => exact .next (unlessFatal_agree h (respond_agree (clearCount_agree h) _ _))
  | ldraw w => exact .next (unlessFatal_agree h (respond_agree (appendWord_agree h w) _ _))
  | ldobs o => exact .next (unlessFatal_agree h (respond_agree (appendWord_agree h (untemper o)) _ _))
  | ldcommit => exact .next (unlessFatal_agree h (commitLoad_agree h))
  | rdstat => exact .next (statusWord_agree h ▸ respond_agree h _ _)
  | clrerr => exact .next (unlessFatal_agree h (respond_agree (clearErrorBits_agree h) _ _))

theorem runCommand_agree (c : Command) : ResultsAgree (runCommand c s) (runCommand c t) := by
  rw [runCommand, runCommand]
  cases decode c with
  | ok i => exact exec_agree h i
  | error e => exact .next (unlessFatal_agree h (raise_agree h _ _))

theorem step_agree : ResultsAgree (step s) (step t) := by
  rw [step, step, serveInput, serveInput, ← h.inputs]
  cases s.inputs with
  | nil => exact .next h
  | cons x rest =>
    have h' := withInputs_agree h rest
    cases x with
    | command c => exact runCommand_agree h' c
    | reset => exact .next (assertReset_agree h')
    | commandThenReset c => exact .next (assertReset_agree h')

end Agreement

/-- Settles O52: MT is read on a seeded core only, KSW while bytes are held, LB below LCNT. -/
theorem unreadableWordsNeverMatter : Obligations.UnreadableWordsNeverMatter := by
  intro s t s' h hs
  have hst := step_agree h
  rw [hs] at hst
  generalize step t = r at hst
  cases hst with
  | next h' => exact ⟨_, rfl, h'⟩

/-- Settles O53: after reset VALID, KSN and LCNT are 0, so no word of MT, KSW or LB is readable. -/
theorem resetContentsAreUnreadable : Obligations.ResetContentsAreUnreadable := by
  intro m l k
  exact
    { idx := rfl, valid := rfl, ksn := rfl, lcnt := rfl, eLen := rfl, eUns := rfl, eIll := rfl, fatal := rfl
      inputs := rfl, responses := rfl
      mt := fun hv => absurd hv (by decide)
      ksw := fun hk => absurd rfl hk
      lb := fun i _ hi => absurd hi (Nat.not_lt_zero i) }

/-! ### Reset, STATUS, NEXTBYTE and several cores -/

/-- Settles O11. -/
theorem resetLeavesTheStatedValues : Obligations.ResetLeavesTheStatedValues :=
  ⟨rfl, rfl, rfl, rfl, rfl, rfl, rfl, rfl⟩

theorem statusWord_idx (s : State) : (statusWord s).extractLsb' 0 10 = s.idx := BitVec.extractLsb'_append_eq_right

theorem statusWord_ksn (s : State) : (statusWord s).extractLsb' 10 3 = s.ksn := by
  rw [statusWord, BitVec.extractLsb'_append_eq_of_le (by decide)]
  exact BitVec.extractLsb'_append_eq_right

theorem statusWord_lcnt (s : State) : (statusWord s).extractLsb' 13 10 = s.lcnt := by
  rw [statusWord, BitVec.extractLsb'_append_eq_of_le (by decide), BitVec.extractLsb'_append_eq_of_le (by decide)]
  exact BitVec.extractLsb'_append_eq_right

theorem statusWord_top (s : State) : (statusWord s).extractLsb' 29 3 = 0#3 := by
  rw [statusWord]
  iterate 9 rw [BitVec.extractLsb'_append_eq_of_le (by decide)]
  rfl

/-- STATUS[31:23]: three reserved bits, the five flags, the reserved bit 23 (R28). -/
def flagField (s : State) : BitVec 9 :=
  0#3 ++ BitVec.ofBool s.fatal ++ BitVec.ofBool s.eIll ++ BitVec.ofBool s.eUns ++ BitVec.ofBool s.eLen ++
    BitVec.ofBool s.valid ++ 0#1

theorem statusWord_getLsbD_flag (s : State) (b : Nat) : (statusWord s).getLsbD (b + 23) = (flagField s).getLsbD b := by
  rw [statusWord]
  iterate 3 rw [BitVec.getLsbD_append, if_neg (by omega)]
  rfl

theorem flagField_bits (s : State) :
    (flagField s).getLsbD 0 = false ∧ (flagField s).getLsbD 1 = s.valid ∧ (flagField s).getLsbD 2 = s.eLen ∧
    (flagField s).getLsbD 3 = s.eUns ∧ (flagField s).getLsbD 4 = s.eIll ∧ (flagField s).getLsbD 5 = s.fatal := by
  unfold flagField
  generalize s.fatal = f, s.eIll = i, s.eUns = u, s.eLen = l, s.valid = v
  revert f i u l v
  decide

/-- Settles O48: STATUS is the concatenation of its fields. -/
theorem rdstatAnswersTheLiveStatus : Obligations.RdstatAnswersTheLiveStatus := by
  intro s
  obtain ⟨h23, hvalid, hlen, huns, hill, hfatal⟩ := flagField_bits s
  simp only [← statusWord_getLsbD_flag] at h23 hvalid hlen huns hill hfatal
  exact ⟨by decide, statusWord s, rfl, statusWord_idx s, statusWord_ksn s, statusWord_lcnt s, h23, hvalid, hlen, huns, hill,
    hfatal, statusWord_top s⟩

/-- The byte at a position of KSW, zero-extended, is KSW shifted down and masked (R29, R150). -/
theorem zextByte_byteOfWord (w : Word) (n : BitVec 3) :
    zextByte (byteOfWord w n) = (w >>> (8 * (n.toNat - 1))) &&& 0x000000FF#32 := by
  rw [byteOfWord_eq, zextByte, Nat.mul_sub]
  apply BitVec.eq_of_toNat_eq
  rw [BitVec.toNat_setWidth_of_le (by decide), BitVec.toNat_setWidth, BitVec.toNat_and]
  exact (Nat.and_two_pow_sub_one_eq_mod _ 8).symm

/-- The most significant byte is what a shift by 24 leaves. -/
theorem zextByte_byteOfWord_four (w : Word) : zextByte (byteOfWord w 4#3) = w >>> 24 := by
  rw [byteOfWord_eq, zextByte]
  apply BitVec.eq_of_toNat_eq
  rw [BitVec.toNat_setWidth_of_le (by decide), BitVec.toNat_setWidth]
  apply Nat.mod_eq_of_lt
  simp
  omega

section Nextbyte
variable {s : State}

theorem answerDraw_of_ok {draw : State → Except CoreError (Word × State)} {v : Word} {t : State} (hv : s.valid = true)
    (hd : draw s = .ok (v, t)) : answerDraw draw s = respond .ok v t := by
  simp only [answerDraw, hv, hd, if_true]

theorem exec_nextbyte_of_ok {p : Byte × State} (hf : s.fatal = false) (hv : s.valid = true) (hn : nextByte s = .ok p) :
    exec .nextbyte s = .next (respond .ok (zextByte p.1) p.2) := by
  have hd : drawByte s = .ok (zextByte p.1, p.2) := by rw [drawByte_eq_map, hn]; rfl
  rw [exec, execNextbyte, unlessFatal_of_not_fatal _ hf, answerDraw_of_ok hv hd]

/-- The first byte of a word just held leaves three. -/
theorem takeByte_of_four (w : Word) (s : State) :
    takeByte { s with ksw := w, ksn := 4#3 } = (byteOfWord w 4#3, { s with ksw := w, ksn := 3#3 }) := by
  rw [takeByte, show 4#3 - 1#3 = 3#3 by decide]

theorem exec_nextbyte_of_extract {p : Word × State} (hf : s.fatal = false) (hv : s.valid = true)
    (hk : s.ksn = 0#3) (he : extract s = .ok p) :
    exec .nextbyte s = .next (respond .ok (p.1 >>> 24) { p.2 with ksw := p.1, ksn := 3#3 }) := by
  have hn : nextByte s = .ok (byteOfWord p.1 4#3, { p.2 with ksw := p.1, ksn := 3#3 }) := by
    rw [nextByte_of_none_held hk, he, ← takeByte_of_four]
    rfl
  rw [exec_nextbyte_of_ok hf hv hn, zextByte_byteOfWord_four]

end Nextbyte

/-- Settles O30, by the bytes held. -/
theorem nextbyteDeliversTheNextByte : Obligations.NextbyteDeliversTheNextByte := by
  intro s
  refine ⟨by decide, fun hf hv hk _ => ?_, fun hf hv hk hi => ?_, fun hf hv hk hi => ?_, fun hf => ?_⟩
  · have hk : s.ksn ≠ 0#3 := by bv_omega
    rw [exec_nextbyte_of_ok hf hv (nextByte_of_held hk), takeByte_byte, zextByte_byteOfWord]
    rfl
  · exact exec_nextbyte_of_extract hf hv hk (extract_of_lt hi)
  · exact exec_nextbyte_of_extract hf hv hk (extract_of_eq hi)
  · exact congrArg Host.Outcome.next (unlessFatal_of_fatal _ hf)

theorem runCommand_answers (c : Command) (s : State) : ∃ t, runCommand c s = .next t := by
  obtain ⟨i, -, hc⟩ | ⟨e, -, hc⟩ := runCommand_cases c s
  · obtain ⟨t, ht⟩ := exec_answers i s
    exact ⟨t, hc.trans ht⟩
  · exact ⟨_, hc⟩

theorem commandAt_eq {k : Nat} {c : Command} {cores : List State} {s t : State} (hs : cores[k]? = some s)
    (ht : runCommand c s = .next t) : commandAt k c cores = some (cores.set k t) := by
  simp only [commandAt, hs, ht]

/-- Settles O58. -/
theorem coresShareNothing : Obligations.CoresShareNothing := by
  intro k c cores hk
  have hs : cores[k]? = some cores[k] := List.getElem?_eq_getElem hk
  obtain ⟨t, ht⟩ := runCommand_answers c cores[k]
  exact ⟨cores.set k t, cores[k], t, commandAt_eq hs ht, hs, ht, List.getElem?_set_self hk, List.length_set,
    fun j hj => List.getElem?_set_ne hj.symm⟩

end Sys2Proof

/-! SUPPORT. The statements about what a command reads of the generator's memory and what it leaves there (spec/20_memory.md).
The output stream is said once, as a function of the array and a position (`streamWord`): a core that reads it (`ReadsFrom`)
answers its words in order, and 624 consecutive words of it determine all later ones. -/

namespace Sys2Proof

open Sys2Proof.Machine

/-! ### The untempered word (R130, R132) -/

theorem getLsbD_undoRightBit (z : Word) (k : Nat) (m x : Word) {b j : Nat} (hb : b < 32) (hj : j < 32) :
    (undoRightBit z k m x b).getLsbD j =
      if b = j then z.getLsbD b ^^ (x.getLsbD (b + k) && m.getLsbD b) else x.getLsbD j := by
  rw [undoRightBit, getLsbD_putBit _ _ hb hj]
  by_cases h : b + k ≤ 31
  · rw [if_pos h]
  · rw [if_neg h, BitVec.getLsbD_of_ge x (b + k) (by omega), Bool.false_and, Bool.xor_false]

theorem getLsbD_undoLeftBit (z : Word) (k : Nat) (m x : Word) {b j : Nat} (hb : b < 32) (hj : j < 32) :
    (undoLeftBit z k m x b).getLsbD j =
      if b = j then z.getLsbD b ^^ (decide (k ≤ b) && x.getLsbD (b - k) && m.getLsbD b) else x.getLsbD j := by
  rw [undoLeftBit, getLsbD_putBit _ _ hb hj]
  by_cases h : k ≤ b <;> simp [h]

theorem getLsbD_stepRight (y : Word) (k : Nat) (m : Word) (b : Nat) :
    (stepRight y k m).getLsbD b = (y.getLsbD b ^^ (y.getLsbD (b + k) && m.getLsbD b)) := by
  simp [stepRight, Nat.add_comm]

theorem getLsbD_stepLeft (y : Word) (k : Nat) (m : Word) {b : Nat} (hb : b < 32) :
    (stepLeft y k m).getLsbD b = (y.getLsbD b ^^ (decide (k ≤ b) && y.getLsbD (b - k) && m.getLsbD b)) := by
  have hkb : (!decide (b < k)) = decide (k ≤ b) := by simp [← decide_not]
  rw [stepLeft, BitVec.getLsbD_xor, BitVec.getLsbD_and, BitVec.getLsbD_shiftLeft, decide_eq_true hb, Bool.true_and, hkb]

/-- The pass of `undo_right` from bit `n - 1` down to bit 0, on a word that already has the bits from `n` on. -/
theorem undoRight_pass (y : Word) {k : Nat} (m : Word) (hk : 0 < k) {n : Nat} (hn : n ≤ 32) {x : Word}
    (hx : ∀ j, n ≤ j → x.getLsbD j = y.getLsbD j) :
    (List.range n).reverse.foldl (undoRightBit (stepRight y k m) k m) x = y := by
  induction n generalizing x with
  | zero => exact BitVec.eq_of_getLsbD_eq fun j _ => hx j (Nat.zero_le j)
  | succ n ih =>
    rw [List.range_succ, List.reverse_append]
    refine ih (by omega) fun j hj => ?_
    rcases Nat.lt_or_ge j 32 with hj32 | hj32
    · rw [getLsbD_undoRightBit _ _ _ _ (by omega) hj32]
      split
      next h =>
        subst h
        rw [getLsbD_stepRight, hx _ (by omega), Bool.xor_assoc, Bool.xor_self, Bool.xor_false]
      next h => exact hx j (by omega)
    · rw [BitVec.getLsbD_of_ge _ _ hj32, BitVec.getLsbD_of_ge _ _ hj32]

/-- `undo_right` undoes a right-shift step (R132). -/
theorem undoRight_stepRight (y : Word) {k : Nat} (m : Word) (hk : 0 < k) : undoRight (stepRight y k m) k m = y := by
  rw [undoRight]
  exact undoRight_pass y m hk (Nat.le_refl _) fun j hj => by
    rw [BitVec.getLsbD_of_ge _ _ hj, BitVec.getLsbD_of_ge _ _ hj]

/-- The pass of `undo_left` over the bits below `n` makes them final. -/
theorem undoLeft_pass (y : Word) {k : Nat} (m : Word) (hk : 0 < k) {n : Nat} (hn : n ≤ 32) (x : Word) {j : Nat} (hj : j < n) :
    ((List.range n).foldl (undoLeftBit (stepLeft y k m) k m) x).getLsbD j = y.getLsbD j := by
  induction n generalizing j with
  | zero => omega
  | succ n ih =>
    rw [List.range_succ, List.foldl_append, List.foldl_cons, List.foldl_nil,
      getLsbD_undoLeftBit _ _ _ _ (by omega) (by omega)]
    split
    next h =>
      subst h
      rw [getLsbD_stepLeft _ _ _ (by omega)]
      by_cases hkn : k ≤ n
      · rw [ih (by omega) (by omega), Bool.xor_assoc, Bool.xor_self, Bool.xor_false]
      · simp [hkn]
    next h => exact ih (by omega) (by omega)

/-- `undo_left` undoes a left-shift step (R132). -/
theorem undoLeft_stepLeft (y : Word) {k : Nat} (m : Word) (hk : 0 < k) : undoLeft (stepLeft y k m) k m = y := by
  rw [undoLeft]
  exact BitVec.eq_of_getLsbD_eq fun j hj => undoLeft_pass y m hk (Nat.le_refl _) 0 hj

/-- `temper` as four steps of the two shapes: a full mask changes nothing (R120). -/
theorem temper_eq_steps (y : Word) :
    temper y = stepRight (stepLeft (stepLeft (stepRight y t1Shift fullMask) t2Shift t2Mask) t3Shift t3Mask) t4Shift fullMask := by
  have hfull (x : Word) : x &&& fullMask = x := BitVec.and_allOnes
  simp only [stepRight, hfull]
  rw [temper, stepRight, show t1Mask = fullMask from rfl, hfull]

theorem untemper_temper (v : Word) : untemper (temper v) = v := by
  rw [temper_eq_steps, untemper, undoRight_stepRight _ _ (by decide), undoLeft_stepLeft _ _ (by decide),
    undoLeft_stepLeft _ _ (by decide), undoRight_stepRight _ _ (by decide)]

/-! ### The output stream (R110, R114) -/

/-- An index into the second round of a register file is the index 624 below it. -/
theorem wordAt_of_ge (a : Words) {i : Nat} (h1 : 624 ≤ i) (h2 : i < 1248) : wordAt a i = wordAt a (i - 624) := by
  rw [← wordAt_mod a i, show i % 624 = i - 624 by omega]

theorem rawWord_of_lt (mt : Words) {k : Nat} (h : k < 624) : rawWord mt k = wordAt mt k := if_pos h

theorem rawWord_of_ge (mt : Words) {k : Nat} (h : 624 ≤ k) : rawWord mt k = wordAt (twist mt) (k - 624) :=
  if_neg (Nat.not_lt.2 h)

/-- The first `n` iterations already give the first `n` words of the twist. -/
theorem wordAt_twist (mt : Words) {n j : Nat} (hj : j < n) (hn : n ≤ N) : wordAt (twist mt) j = wordAt (twistPass mt n) j := by
  unfold twist
  exact wordAt_twistPass_of_lt mt hj hn (Nat.le_refl N)

/-- The array in the middle of the pass holds the 624 raw words from the iteration's own on (R110, R111). -/
theorem wordAt_twistPass (mt : Words) {n j : Nat} (hn : n ≤ 624) (h1 : n ≤ j) (h2 : j < n + 624) :
    wordAt (twistPass mt n) j = rawWord mt j := by
  rcases Nat.lt_or_ge j 624 with hj | hj
  · rw [rawWord_of_lt mt hj, wordAt_twistPass_of_ge mt h1 hj]
  · rw [rawWord_of_ge mt hj, wordAt_of_ge _ hj (by omega), wordAt_twist mt (by omega) hn]

/-- R114 over one twist, in the twist's own terms. -/
theorem rawWord_recurrence (mt : Words) {k : Nat} (hk : k < 624) :
    rawWord mt (k + 624) = rawWord mt (k + 397) ^^^ twistMix (twistJoin (rawWord mt k) (rawWord mt (k + 1))) := by
  have hword : rawWord mt (k + 624) = wordAt (twistStep (twistPass mt k) k) k := by
    rw [rawWord_of_ge mt (by omega), Nat.add_sub_cancel, wordAt_twist mt (Nat.lt_succ_self k) hk, twistPass_succ]
  have hstep : wordAt (twistStep (twistPass mt k) k) k = wordAt (twistPass mt k) (k + 397) ^^^
      twistMix (twistJoin (wordAt (twistPass mt k) k) (wordAt (twistPass mt k) (k + 1))) := by
    rw [twistStep, wordAt_setWord _ _ hk hk, if_pos rfl]
  rw [hword, hstep]
  iterate 3 rw [wordAt_twistPass mt (by omega) (by omega) (by omega)]

/-- Raw word `n` of the stream of a generator: `x_n` of R114, `n` counted from word 0 of the array `mt`. -/
def streamWord (mt : Words) (n : Nat) : Word := wordAt (twist^[n / 624] mt) (n % 624)

/-- From the start of a generation on, the stream is that generation's raw words. -/
theorem streamWord_eq_rawWord (mt : Words) (q : Nat) {r : Nat} (hr : r < 1248) :
    streamWord mt (624 * q + r) = rawWord (twist^[q] mt) r := by
  rcases Nat.lt_or_ge r 624 with h | h
  · rw [streamWord, rawWord_of_lt _ h, show (624 * q + r) / 624 = q by omega, show (624 * q + r) % 624 = r by omega]
  · rw [streamWord, rawWord_of_ge _ h, show (624 * q + r) / 624 = q + 1 by omega,
      show (624 * q + r) % 624 = r - 624 by omega, Function.iterate_succ_apply']

theorem streamWord_of_lt (mt : Words) {n : Nat} (h : n < 624) : streamWord mt n = wordAt mt n := by
  rw [streamWord, Nat.div_eq_of_lt h, Nat.mod_eq_of_lt h]
  rfl

/-- R114: one recurrence of order 624 for the whole stream. -/
theorem streamWord_recurrence (mt : Words) (n : Nat) :
    streamWord mt (n + 624) =
      streamWord mt (n + 397) ^^^ twistMix (twistJoin (streamWord mt n) (streamWord mt (n + 1))) := by
  have hn := Nat.div_add_mod n 624
  have hr := Nat.mod_lt n (show 0 < 624 by decide)
  generalize n / 624 = q, n % 624 = r at hn hr
  subst hn
  simp only [Nat.add_assoc]
  iterate 4 rw [streamWord_eq_rawWord mt q (by omega)]
  exact rawWord_recurrence _ hr

/-- Two streams that agree on 624 consecutive words agree from there on (R59, R114). -/
theorem streamWord_eq_of_window {a b : Words} {m n : Nat}
    (h : ∀ j, j < 624 → streamWord a (m + j) = streamWord b (n + j)) (k : Nat) :
    streamWord a (m + k) = streamWord b (n + k) := by
  induction k using Nat.strong_induction_on with
  | _ k ih =>
    rcases Nat.lt_or_ge k 624 with hk | hk
    · exact h k hk
    · obtain ⟨k, rfl⟩ := Nat.exists_eq_add_of_le' hk
      rw [← Nat.add_assoc, ← Nat.add_assoc, streamWord_recurrence, streamWord_recurrence]
      simp only [Nat.add_assoc]
      rw [ih k (by omega), ih (k + 1) (by omega), ih (k + 397) (by omega)]

/-! ### Drawing a word (R57, R123, R124) -/

/-- Up to the boundary a word is drawn, and the draw writes the array and the cursor only: held bytes stay (R57). -/
theorem extract_of_le {s : State} (h : s.idx.toNat ≤ 624) :
    ∃ w a i, extract s = .ok (w, { s with mt := a, idx := i }) := by
  obtain ⟨hi, -⟩ | ⟨-, he⟩ | ⟨-, he⟩ := extract_cases s
  · exact absurd h (Nat.not_le.2 hi)
  · exact ⟨_, _, _, he⟩
  · exact ⟨_, _, _, he⟩

theorem exec_extract_of_ok {s : State} {p : Word × State} (hf : s.fatal = false) (hv : s.valid = true)
    (he : extract s = .ok p) : exec .extract s = .next (respond .ok p.1 p.2) := by
  rw [exec, execExtract, unlessFatal_of_not_fatal _ hf, answerDraw_of_ok hv he]

theorem send_extract_of_ok {s : State} {p : Word × State} (hf : s.fatal = false) (hv : s.valid = true)
    (he : extract s = .ok p) : send .extract s = some (⟨.ok, p.1⟩, respond .ok p.1 p.2) :=
  send_of_exec (exec_extract_of_ok hf hv he) (respond_responses ..)

/-- A live core that reads the stream of the generator `mt` and stands before its word `n`: its array is a later generation,
its cursor a place in it, the end included (R24, R113). -/
structure ReadsFrom (mt : Words) (n : Nat) (s : State) : Prop where
  live     : s.fatal = false
  seeded   : s.valid = true
  cursor   : s.idx.toNat ≤ 624
  position : ∃ q, s.mt = twist^[q] mt ∧ 624 * q + s.idx.toNat = n

section Reading
variable {mt : Words} {n : Nat} {s : State}

theorem readsFrom_self (hf : s.fatal = false) (hv : s.valid = true) (hi : s.idx.toNat ≤ 624) :
    ReadsFrom s.mt s.idx.toNat s :=
  ⟨hf, hv, hi, 0, rfl, by omega⟩

/-- `takeWord` at a cursor below 624 reads the stream's next word. -/
theorem readsFrom_takeWord (h : ReadsFrom mt n s) (hi : s.idx.toNat < 624) :
    (takeWord s).1 = temper (streamWord mt n) ∧ ReadsFrom mt (n + 1) (takeWord s).2 := by
  obtain ⟨hf, hv, -, q, hmt, rfl⟩ := h
  have hnext := takeWord_idx_toNat hi
  constructor
  · rw [takeWord_word, streamWord_eq_rawWord mt q (by omega), rawWord_of_lt _ hi, hmt]
  · exact ⟨hf, hv, by omega, q, hmt, by omega⟩

/-- The twist at the end of an array does not move the place in the stream. -/
theorem readsFrom_twistState (h : ReadsFrom mt n s) (hi : s.idx.toNat = 624) :
    ReadsFrom mt n (twistState s) := by
  obtain ⟨hf, hv, -, q, hmt, rfl⟩ := h
  refine ⟨hf, hv, by simp, q + 1, ?_, by simp; omega⟩
  rw [twistState_mt, hmt, Function.iterate_succ_apply']

theorem readsFrom_extract (h : ReadsFrom mt n s) :
    ∃ t, extract s = .ok (temper (streamWord mt n), t) ∧ ReadsFrom mt (n + 1) t := by
  obtain ⟨hi, -⟩ | ⟨hi, he⟩ | ⟨hi, he⟩ := extract_cases s
  · exact absurd h.cursor (Nat.not_le.2 hi)
  · obtain ⟨hw, ht⟩ := readsFrom_takeWord (readsFrom_twistState h hi) (by simp)
    exact ⟨_, he.trans (by rw [← hw]), ht⟩
  · obtain ⟨hw, ht⟩ := readsFrom_takeWord h hi
    exact ⟨_, he.trans (by rw [← hw]), ht⟩

/-- EXTRACT answers the stream's next word. -/
theorem readsFrom_send (h : ReadsFrom mt n s) :
    ∃ t, send .extract s = some (⟨.ok, temper (streamWord mt n)⟩, t) ∧ ReadsFrom mt (n + 1) t := by
  obtain ⟨t, he, ht⟩ := readsFrom_extract h
  exact ⟨_, send_extract_of_ok h.live h.seeded he, { ht with }⟩

/-- The response to the EXTRACT that reads word `n` of the stream. -/
def streamAnswer (mt : Words) (n : Nat) : Response := ⟨.ok, temper (streamWord mt n)⟩

/-- `k` EXTRACT answer the stream's next `k` words. -/
theorem readsFrom_sendAll (k : Nat) (h : ReadsFrom mt n s) :
    ∃ t, sendAll (List.replicate k .extract) s = some ((List.range' n k).map (streamAnswer mt), t) ∧
      ReadsFrom mt (n + k) t := by
  induction k generalizing n s with
  | zero => exact ⟨s, rfl, h⟩
  | succ k ih =>
    obtain ⟨u, hsend, hu⟩ := readsFrom_send h
    obtain ⟨t, hall, ht⟩ := ih hu
    refine ⟨t, ?_, by rwa [← Nat.add_assoc, Nat.add_right_comm]⟩
    rw [List.replicate_succ, sendAll_cons_of_ok hsend, hall]
    rfl

/-- The host's capture of `k` words (R145). -/
theorem readsFrom_drawWords (k : Nat) (h : ReadsFrom mt n s) :
    ∃ t, drawWords k s = some (.ok ((List.range' n k).map fun j => temper (streamWord mt j)), t) ∧
      ReadsFrom mt (n + k) t := by
  obtain ⟨t, hall, ht⟩ := readsFrom_sendAll k h
  have hok : ∀ r, r ∈ (List.range' n k).map (streamAnswer mt) → r.status = .ok := by
    intro r hr
    obtain ⟨j, -, rfl⟩ := List.mem_map.1 hr
    rfl
  refine ⟨t, ?_, ht⟩
  simp only [drawWords, hall, reported_of_ok hok, Except.map, List.map_map]
  rfl

theorem readsFrom_outputWord (k : Nat) (h : ReadsFrom mt n s) :
    outputWord k s = some (temper (streamWord mt (n + k))) := by
  obtain ⟨t, hall, -⟩ := readsFrom_sendAll (k + 1) h
  have hk : ((List.range' n (k + 1)).map (streamAnswer mt))[k]? = some (streamAnswer mt (n + k)) := by
    simp
  simp only [outputWord, hall, hk]
  rfl

end Reading

/-! ### Loading a generator (R140 to R145) -/

/-- A live core whose load buffer begins with the words `ws`, counted. -/
structure LoadHolds (ws : List Word) (s : State) : Prop where
  live  : s.fatal = false
  count : s.lcnt.toNat = ws.length
  words : ∀ j, j < ws.length → ws[j]? = some (wordAt s.lb j)

/-- A word appended to a buffer that is not full is the next one held (R141). -/
theorem loadHolds_appendWord {ws : List Word} {s : State} (h : LoadHolds ws s) (hlen : ws.length < 624) (w : Word) :
    LoadHolds (ws ++ [w]) (appendWord w s) := by
  obtain ⟨hf, hcount, hwords⟩ := h
  obtain ⟨hlt, ha⟩ | ⟨hge, -⟩ := appendWord_cases w s
  · rw [ha]
    refine ⟨hf, ?_, fun j hj => ?_⟩
    · rw [List.length_append, List.length_singleton, ← hcount]
      show (s.lcnt + 1#10).toNat = _
      bv_omega
    · rw [List.length_append, List.length_singleton] at hj
      rw [wordAt_setWord _ _ hlt (Nat.lt_of_le_of_lt (Nat.le_of_lt_succ hj) hlen), hcount]
      split
      next hend => rw [← hend, List.getElem?_concat_length]
      next hne => rw [List.getElem?_append_left (by omega), hwords j (by omega)]
  · omega

/-- A command that loads the word `value w` when given `w` (LDRAW, LDOBS; R141, R142). -/
def Loads (load : Word → Instr) (value : Word → Word) : Prop :=
  ∀ (w : Word) (s : State), s.fatal = false → exec (load w) s = .next (respond .ok 0#32 (appendWord (value w) s))

theorem loads_ldobs : Loads .ldobs untemper := fun _ _ hf =>
  congrArg Host.Outcome.next (unlessFatal_of_not_fatal _ hf)

/-- Loading a list of words one after the other. -/
theorem sendAll_loads {load : Word → Instr} {value : Word → Word} (hload : Loads load value) (ws : List Word) {us : List Word}
    {s : State} (h : LoadHolds us s) (hlen : us.length + ws.length ≤ 624) :
    ∃ t, sendAll (ws.map load) s = some (List.replicate ws.length ⟨.ok, 0#32⟩, t) ∧ LoadHolds (us ++ ws.map value) t := by
  induction ws generalizing us s with
  | nil => exact ⟨s, rfl, by simpa using h⟩
  | cons w ws ih =>
    rw [List.length_cons] at hlen
    have hsend := send_of_exec (hload w s h.live) (respond_responses ..)
    have hstep := loadHolds_appendWord h (by omega) (value w)
    obtain ⟨t, hall, ht⟩ := ih (s := respond .ok 0#32 (appendWord (value w) s)) { hstep with }
      (by rw [List.length_append, List.length_singleton]; omega)
    refine ⟨t, ?_, by simpa using ht⟩
    rw [List.map_cons, sendAll_cons_of_ok hsend, hall]
    rfl

/-- LDCOMMIT of 624 words makes the generator of those words, read from the end of the array on (R143). -/
theorem send_ldcommit_of_full {ws : List Word} {s : State} (h : LoadHolds ws s) (hlen : ws.length = 624) :
    ∃ t, send .ldcommit s = some (⟨.ok, 0#32⟩, t) ∧ ReadsFrom t.mt 624 t ∧ ∀ j, j < 624 → ws[j]? = some (wordAt t.mt j) := by
  obtain ⟨hf, hcount, hwords⟩ := h
  have hl : s.lcnt = 624#10 := BitVec.eq_of_toNat_eq (hcount.trans hlen)
  obtain ⟨-, hc⟩ | ⟨hne, -⟩ := commitLoad_cases s
  · have hexec : exec .ldcommit s = .next (commitLoad s) := congrArg Host.Outcome.next (unlessFatal_of_not_fatal _ hf)
    rw [hc] at hexec
    exact ⟨_, send_of_exec hexec (respond_responses ..), ⟨hf, rfl, by simp, 0, rfl, by simp⟩,
      fun j hj => hwords j (by omega)⟩
  · exact absurd hl hne

/-- LDBEGIN, 624 words, LDCOMMIT: a generator of those words in any live core (R83, R144, R145). -/
theorem sendAll_load_commit {load : Word → Instr} {value : Word → Word} (hload : Loads load value) {ws : List Word}
    (hlen : ws.length = 624) {s : State} (hf : s.fatal = false) :
    ∃ rs t, sendAll (.ldbegin :: ws.map load ++ [.ldcommit]) s = some (rs, t) ∧ (∀ r, r ∈ rs → r = ⟨.ok, 0#32⟩) ∧
      ReadsFrom t.mt 624 t ∧ ∀ j, j < 624 → (ws.map value)[j]? = some (wordAt t.mt j) := by
  have hbegin : send .ldbegin s = some (⟨.ok, 0#32⟩, respond .ok 0#32 { s with lcnt := 0#10 }) :=
    send_of_exec (congrArg Host.Outcome.next (unlessFatal_of_not_fatal _ hf)) (respond_responses ..)
  have hempty : LoadHolds [] (respond .ok 0#32 { s with lcnt := 0#10 }) := ⟨hf, rfl, nofun⟩
  obtain ⟨u, hloads, hu⟩ := sendAll_loads hload ws hempty (by simp [hlen])
  obtain ⟨t, hcommit, ht, hwords⟩ := send_ldcommit_of_full hu (by simp [hlen])
  refine ⟨⟨.ok, 0#32⟩ :: (List.replicate ws.length ⟨.ok, 0#32⟩ ++ [⟨.ok, 0#32⟩]), t, ?_, ?_, ht, hwords⟩
  · rw [List.cons_append, sendAll_cons_of_ok hbegin,
      sendAll_append hloads fun r hr => by rw [List.eq_of_mem_replicate hr], sendAll_cons_of_ok hcommit]
    rfl
  · intro r hr
    rw [List.mem_cons, List.mem_append, List.mem_singleton] at hr
    obtain hr | hr | hr := hr
    · exact hr
    · exact List.eq_of_mem_replicate hr
    · exact hr

/-- Settles O46: clone and original read streams that agree on the 624 words captured, so they agree for ever. -/
theorem anyConsecutiveWindowClones : Obligations.AnyConsecutiveWindowClones := by
  intro s t hf hv hi htf
  obtain ⟨s', hdraw, hs'⟩ := readsFrom_drawWords 624 (readsFrom_self hf hv hi)
  obtain ⟨rs, t', hclone, -, ht', hwords⟩ := sendAll_load_commit loads_ldobs
    (ws := (List.range' s.idx.toNat 624).map fun j => temper (streamWord s.mt j)) (by simp) htf
  refine ⟨_, s', t', rs, hdraw, hclone, fun k => ⟨_, readsFrom_outputWord k hs', ?_⟩⟩
  have hwindow (j : Nat) (hj : j < 624) : streamWord t'.mt (0 + j) = streamWord s.mt (s.idx.toNat + j) := by
    have := hwords j hj
    simpa [hj, untemper_temper, streamWord_of_lt] using this.symm
  rw [readsFrom_outputWord k ht', Nat.add_assoc, ← streamWord_eq_of_window hwindow, Nat.zero_add]

/-! ### Bytes held and words drawn (R54, R55, R57) -/

/-- The response that delivers byte `j` of a word, counted from the bottom (R29). -/
def byteAnswer (w : Word) (j : Nat) : Response := ⟨.ok, (w >>> (8 * j)) &&& 0xFF#32⟩

theorem send_nextbyte_of_held {s : State} {n : Nat} (hf : s.fatal = false) (hv : s.valid = true) (hk : s.ksn.toNat = n + 1) :
    send .nextbyte s = some (byteAnswer s.ksw n, respond .ok (byteAnswer s.ksw n).data { s with ksn := s.ksn - 1#3 }) := by
  have hne : s.ksn ≠ 0#3 := by bv_omega
  have hbyte : zextByte (takeByte s).1 = (byteAnswer s.ksw n).data := by
    rw [takeByte_byte, zextByte_byteOfWord, hk]
    rfl
  exact send_of_exec (by rw [exec_nextbyte_of_ok hf hv (nextByte_of_held hne), hbyte]; rfl) (respond_responses ..)

/-- The held bytes are delivered from the top down, and the generator does not move (R55, R150). -/
theorem sendAll_nextbyte_of_held (n : Nat) {s : State} (hf : s.fatal = false) (hv : s.valid = true) (hk : s.ksn.toNat = n) :
    ∃ u, sendAll (List.replicate n .nextbyte) s = some ((List.range n).reverse.map (byteAnswer s.ksw), u) ∧
      u.mt = s.mt ∧ u.idx = s.idx ∧ u.ksn = 0#3 ∧ u.ksw = s.ksw := by
  induction n generalizing s with
  | zero => exact ⟨s, rfl, rfl, rfl, BitVec.eq_of_toNat_eq hk, rfl⟩
  | succ n ih =>
    have hk' : (s.ksn - 1#3).toNat = n := by bv_omega
    obtain ⟨u, hall, hu⟩ := ih (s := respond .ok (byteAnswer s.ksw n).data { s with ksn := s.ksn - 1#3 }) hf hv hk'
    refine ⟨u, ?_, hu⟩
    rw [List.replicate_succ, sendAll_cons_of_ok (send_nextbyte_of_held hf hv hk), hall, List.range_succ, List.reverse_concat]
    rfl

theorem send_nextbyte_of_extract {s : State} {p : Word × State} (hf : s.fatal = false) (hv : s.valid = true)
    (hk : s.ksn = 0#3) (he : extract s = .ok p) :
    send .nextbyte s = some (⟨.ok, p.1 >>> 24⟩, respond .ok (p.1 >>> 24) { p.2 with ksw := p.1, ksn := 3#3 }) :=
  send_of_exec (exec_nextbyte_of_extract hf hv hk he) (respond_responses ..)

/-- Settles O32: the first byte comes with EXTRACT's word, the other three are held. -/
theorem fourBytesSpellOneWord : Obligations.FourBytesSpellOneWord := by
  intro s hf hv hk hi
  obtain ⟨w, a, i, he⟩ := extract_of_le hi
  have hfirst := send_nextbyte_of_extract hf hv hk he
  obtain ⟨u, hheld, hu⟩ := sendAll_nextbyte_of_held 3
    (s := respond .ok (w >>> 24) { s with mt := a, idx := i, ksw := w, ksn := 3#3 }) hf hv rfl
  refine ⟨w, _, u, send_extract_of_ok hf hv he, ?_, hu⟩
  rw [sendAll_cons_of_ok hfirst]
  exact congrArg (Option.map _) hheld

/-- Settles O33: EXTRACT leaves KSW and KSN as they are. -/
theorem heldBytesSurviveAnExtract : Obligations.HeldBytesSurviveAnExtract := by
  intro s hf hv hk _ hi
  obtain ⟨n, hk⟩ := Nat.exists_eq_add_of_le' hk
  obtain ⟨w, a, i, he⟩ := extract_of_le hi
  have hword := send_extract_of_ok hf hv he
  have hafter := send_nextbyte_of_held (s := respond .ok w { s with mt := a, idx := i }) hf hv hk
  exact ⟨w, _, _, _, _, send_nextbyte_of_held hf hv hk, hword,
    (sendAll_cons_of_ok hword).trans (congrArg (Option.map _) (sendAll_cons_of_ok hafter))⟩

theorem sameCore_respond (st : Status) (d : Word) (s : State) : SameCore (respond st d s) s := rfl

/-- A command that only responds still does behind the FATAL check. -/
theorem unlessFatal_respond (st : Status) (d : Word) (s : State) :
    ∃ st' d', (.next (unlessFatal (respond st d) s) : Result) = .next (respond st' d' s) := by
  cases hf : s.fatal with
  | true => exact ⟨_, _, congrArg _ (unlessFatal_of_fatal _ hf)⟩
  | false => exact ⟨_, _, congrArg _ (unlessFatal_of_not_fatal _ hf)⟩

/-- R54: a pure command only responds, whether or not the FATAL check stops it. -/
theorem exec_of_onlyAnswers {i : Instr} (hi : OnlyAnswers i) (s : State) : ∃ st d, exec i s = .next (respond st d s) := by
  obtain rfl | ⟨v, rfl⟩ | ⟨v, rfl⟩ | rfl := hi
  · exact unlessFatal_respond .ok 0#32 s
  · exact unlessFatal_respond .ok (temper v) s
  · exact unlessFatal_respond .ok (untemper v) s
  · exact ⟨_, _, rfl⟩

/-- Settles O25. -/
theorem pureCommandsFrame : Obligations.PureCommandsFrame := by
  intro i s t hi h
  obtain ⟨st, d, he⟩ := exec_of_onlyAnswers hi s
  rw [he] at h
  cases h
  exact ⟨sameCore_respond st d s, rfl⟩

/-- What EXTRACT can do: refused, one of its two errors, or the word at the cursor, after a twist at 624 (R75, R124). -/
theorem exec_extract_cases (s : State) :
    (s.fatal = true ∧ exec .extract s = .next (respond .errFatal 0#32 s)) ∨
    (s.valid = false ∧ exec .extract s = .next (raise .unseeded 0#32 s)) ∨
    (624 < s.idx.toNat ∧ exec .extract s = .next (raise .fatalCursor 0#32 s)) ∨
    ∃ u, (u = s ∨ s.idx = 624#10 ∧ u = twistState s) ∧
      exec .extract s = .next (respond .ok (takeWord u).1 (takeWord u).2) := by
  cases hf : s.fatal with
  | true => exact .inl ⟨rfl, congrArg _ (unlessFatal_of_fatal _ hf)⟩
  | false =>
    have hexec : exec .extract s = .next (answerDraw extract s) := congrArg _ (unlessFatal_of_not_fatal _ hf)
    cases hv : s.valid with
    | false => exact .inr (.inl ⟨rfl, by rw [hexec, answerDraw, hv]; rfl⟩)
    | true =>
      obtain ⟨hi, he⟩ | ⟨hi, he⟩ | ⟨-, he⟩ := extract_cases s
      · exact .inr (.inr (.inl ⟨hi, by simp only [hexec, answerDraw, hv, he, if_true]⟩))
      · exact .inr (.inr (.inr ⟨_, .inr ⟨BitVec.eq_of_toNat_eq hi, rfl⟩, exec_extract_of_ok hf hv he⟩))
      · exact .inr (.inr (.inr ⟨_, .inl rfl, exec_extract_of_ok hf hv he⟩))

/-- Settles O29, by what EXTRACT can do. -/
theorem extractFrame : Obligations.ExtractFrame := by
  intro s t h
  obtain ⟨-, he⟩ | ⟨hv, he⟩ | ⟨hi, he⟩ | ⟨u, rfl | ⟨hi, rfl⟩, he⟩ := exec_extract_cases s <;> rw [he] at h <;> cases h
  · simp
  · simp [raise_unseeded, hv]
  · simp [raise_fatalCursor, hi]
  · simp
  · simp [hi]

end Sys2Proof

/-! SUPPORT. The statements about the command words, the handshake at the pins and the host's sequences of commands
(spec/30_encoding.md). An argument fits its format when it is a number below two to the operand's width; on such arguments
`encode` and `instrOf` are inverse, and the decoder, the opcode map and the assembler are read off that. -/

namespace Sys2Proof

open Sys2Proof.Machine

/-! ### Operands (R72, R76) -/

/-- How many low bits of ARG hold the operand of a format (R72). -/
def operandWidth : Format → Nat
  | .z => 0
  | .w => 32
  | .h => 16
  | .b => 8

theorem mustBeZero_eq_shiftLeft (f : Format) : mustBeZero f = BitVec.allOnes 32 <<< operandWidth f := by
  cases f <;> rfl

/-- The bits from `n` up are zero in exactly the numbers below `2 ^ n`. -/
theorem and_high_eq_zero_iff (x : Word) (n : Nat) : x &&& BitVec.allOnes 32 <<< n = 0#32 ↔ x.toNat < 2 ^ n := by
  have hx := x.isLt
  have hle := Nat.div_mul_le_self x.toNat (2 ^ n)
  have hval : (x &&& BitVec.allOnes 32 <<< n).toNat = x.toNat / 2 ^ n * 2 ^ n := by
    rw [← BitVec.shiftLeft_ushiftRight, BitVec.toNat_shiftLeft, BitVec.toNat_ushiftRight, Nat.shiftRight_eq_div_pow,
      Nat.shiftLeft_eq, Nat.mod_eq_of_lt (by omega)]
  rw [← BitVec.toNat_inj, hval]
  simp [Nat.div_eq_zero_iff]

/-- An argument respects its format exactly when it is no larger than the operand field (R72, R79). -/
theorem fits_iff (f : Format) (arg : Word) : fits f arg = true ↔ arg.toNat < 2 ^ operandWidth f := by
  rw [fits, beq_iff_eq, mustBeZero_eq_shiftLeft]
  exact and_high_eq_zero_iff arg _

theorem operandFits_some_iff (f : Format) (n : Nat) : operandFits f (some n) = true ↔ f ≠ .z ∧ n < 2 ^ operandWidth f := by
  cases f <;> simp [operandFits, operandWidth]

theorem operandFits_none_iff (f : Format) : operandFits f none = true ↔ f = .z := by
  cases f <;> simp [operandFits]

/-- An operand taken from an argument that fits and zero-extended is the argument (R76, R82). -/
theorem setWidth_setWidth_of_lt {arg : Word} {n : Nat} (h : arg.toNat < 2 ^ n) (hn : n ≤ 32) :
    (arg.setWidth n).setWidth 32 = arg := by
  apply BitVec.eq_of_toNat_eq
  rw [BitVec.toNat_setWidth_of_le hn, BitVec.toNat_setWidth, Nat.mod_eq_of_lt h]

theorem argOf_instrOf {op : Opcode} {arg : Word} (h : wellFormedArg op arg = true) : argOf (instrOf op arg) = arg := by
  rw [wellFormedArg, fits_iff] at h
  have hzero (h0 : operandWidth (formatOf op) = 0) : 0#32 = arg := by
    rw [h0, Nat.pow_zero, Nat.lt_one_iff] at h
    exact (BitVec.eq_of_toNat_eq h).symm
  cases op with
  | seed | temper | untemper | ldraw | ldobs => rfl
  | seed16 => exact setWidth_setWidth_of_lt h (by decide)
  | xorb => exact setWidth_setWidth_of_lt h (by decide)
  | _ => exact hzero rfl

theorem instrOf_argOf (i : Instr) : instrOf (opcodeOf i) (argOf i) = i := by
  cases i with
  | seed16 k => exact congrArg Instr.seed16 (BitVec.setWidth_setWidth_of_le k (by decide))
  | xorb d => exact congrArg Instr.xorb (BitVec.setWidth_setWidth_of_le d (by decide))
  | _ => rfl

/-- The operand types have their formats' widths, so every command is well-formed. -/
theorem wellFormed_true (i : Instr) : i.wellFormed = true := by
  cases i with
  | seed w | temper w | untemper w | ldraw w | ldobs w => exact Laws.EncodedFields.word_respects_format w
  | seed16 k => exact Laws.EncodedFields.key_respects_format k
  | xorb d => exact Laws.EncodedFields.byte_respects_format d
  | _ => rfl

/-! ### The decoder (R72, R78, R79) -/

theorem encode_instrOf {op : Opcode} {arg : Word} (h : wellFormedArg op arg = true) :
    encode (instrOf op arg) = commandWord op arg := by
  rw [encode, opcodeOf_instrOf, argOf_instrOf h]

/-- A word decodes to a command exactly when its fields are a listed opcode and an argument that fits, and make the command. -/
theorem decode_eq_ok_iff (c : Command) (i : Instr) :
    decode c = .ok i ↔ ∃ op arg, c = commandWord op arg ∧ wellFormedArg op arg = true ∧ instrOf op arg = i := by
  constructor
  · intro h
    unfold decode at h
    split at h
    · cases h
    · next op hop =>
      split at h
      · next hwf =>
        refine ⟨op, argField c, ?_, hwf, Except.ok.inj h⟩
        rw [commandWord, opcodeNumber_of_opcodeOfNumber hop, fields_append]
      · cases h
  · rintro ⟨op, arg, rfl, hwf, rfl⟩
    simp [decode, hwf]

/-- Settles O1: the fields of `{OP, ARG}` are the opcode's number and the operand zero-extended. -/
theorem decodeOfEncode : Obligations.DecodeOfEncode := fun i hwf =>
  (decode_eq_ok_iff _ _).2 ⟨_, _, rfl, hwf, instrOf_argOf i⟩

/-- Settles O2: an argument that fits is its own operand zero-extended. -/
theorem encodeOfDecode : Obligations.EncodeOfDecode := by
  intro c i h
  obtain ⟨op, arg, rfl, hwf, rfl⟩ := (decode_eq_ok_iff c i).1 h
  exact encode_instrOf hwf

/-- Settles O5. -/
theorem sampleWordsDecode : Obligations.SampleWordsDecode := by
  unfold Obligations.SampleWordsDecode
  decide

/-! ### The opcode map (R78) -/

/-- The row of an opcode: OP must match, and so must the zeros that the format requires of ARG. -/
def rowOf (op : Opcode) : OpRow := ⟨op, commandWord op 0#32, 0xFF#8 ++ mustBeZero (formatOf op)⟩

/-- The printed map holds the row of each opcode. -/
theorem mem_opcodeMap_iff (r : OpRow) : r ∈ opcodeMap ↔ r = rowOf r.opcode := by
  constructor
  · have hrows : ∀ r ∈ opcodeMap, r = rowOf r.opcode := by decide
    exact hrows r
  · intro h
    rw [h]
    cases r.opcode <;> decide

/-- Two words are equal when their fields are. -/
theorem command_eq_iff (c d : Command) : c = d ↔ opField c = opField d ∧ argField c = argField d := by
  refine ⟨fun h => h ▸ ⟨rfl, rfl⟩, fun ⟨hop, harg⟩ => ?_⟩
  rw [← fields_append c, ← fields_append d, hop, harg]

theorem opField_and_append (c : Command) (a : Byte) (b : Word) : opField (c &&& (a ++ b)) = opField c &&& a := by
  rw [opField, BitVec.extractLsb'_and, BitVec.extractLsb'_append_eq_left, opField]

theorem argField_and_append (c : Command) (a : Byte) (b : Word) : argField (c &&& (a ++ b)) = argField c &&& b := by
  rw [argField, BitVec.extractLsb'_and, BitVec.extractLsb'_append_eq_right, argField]

theorem selects_rowOf_iff (c : Command) (op : Opcode) :
    selects c (rowOf op) = true ↔ opField c = opcodeNumber op ∧ wellFormedArg op (argField c) = true := by
  have hall : opField c &&& 0xFF#8 = opField c := BitVec.and_allOnes
  rw [selects, beq_iff_eq, command_eq_iff, rowOf, opField_and_append, argField_and_append, opField_commandWord,
    argField_commandWord, hall, wellFormedArg, fits, beq_iff_eq]
  rfl

theorem decode_to_opcode_iff (c : Command) (op : Opcode) :
    (∃ i, decode c = .ok i ∧ opcodeOf i = op) ↔ opField c = opcodeNumber op ∧ wellFormedArg op (argField c) = true := by
  constructor
  · rintro ⟨i, hdec, rfl⟩
    obtain ⟨op, arg, rfl, hwf, rfl⟩ := (decode_eq_ok_iff c i).1 hdec
    simpa using hwf
  · rintro ⟨hop, hwf⟩
    refine ⟨instrOf op (argField c), (decode_eq_ok_iff _ _).2 ⟨op, _, ?_, hwf, rfl⟩, opcodeOf_instrOf ..⟩
    rw [commandWord, ← hop, fields_append]

/-- Settles O3: a row is its opcode's, and it asks of a word what the decoder asks. -/
theorem opcodeMapDecidesDecoding : Obligations.OpcodeMapDecidesDecoding := by
  constructor
  · intro c r hr
    rw [(mem_opcodeMap_iff r).1 hr, selects_rowOf_iff]
    exact (decode_to_opcode_iff c _).symm
  · intro c r r' hr hr' hsel hsel'
    rw [mem_opcodeMap_iff] at hr hr'
    rw [hr, selects_rowOf_iff] at hsel
    rw [hr', selects_rowOf_iff] at hsel'
    have hop : some r.opcode = some r'.opcode := by
      rw [← opcodeOfNumber_opcodeNumber, ← opcodeOfNumber_opcodeNumber, ← hsel.1, ← hsel'.1]
    rw [hr, hr', Option.some.inj hop]

/-! ### The assembler (R82) -/

/-- The mnemonics are distinct: looking one up finds its opcode. -/
theorem find?_mnemonicOf (op : Opcode) :
    (opcodeMap.map OpRow.opcode).find? (fun o => mnemonicOf o == mnemonicOf op) = some op := by
  cases op <;> rfl

theorem assemble_mnemonicOf (op : Opcode) (operand : Option Nat) :
    assemble ⟨mnemonicOf op, operand⟩ = (assembleOp op operand).map encode := by
  simp only [assemble, find?_mnemonicOf]

theorem assemble_of_not_fits {op : Opcode} {operand : Option Nat} (h : ¬ operandFits (formatOf op) operand = true) :
    assemble ⟨mnemonicOf op, operand⟩ = none := by
  rw [assemble_mnemonicOf, assembleOp, if_neg h, Option.map_none]

/-- An operand that fits its format is an argument that respects it. -/
theorem wellFormedArg_of_operandFits {op : Opcode} {operand : Option Nat} (h : operandFits (formatOf op) operand = true) :
    wellFormedArg op (BitVec.ofNat 32 (operand.getD 0)) = true := by
  rw [wellFormedArg, fits_iff, BitVec.toNat_ofNat]
  refine (Nat.mod_le _ _).trans_lt ?_
  cases operand with
  | none => exact Nat.two_pow_pos _
  | some n => exact ((operandFits_some_iff _ n).1 h).2

theorem assemble_of_fits {op : Opcode} {operand : Option Nat} (h : operandFits (formatOf op) operand = true) :
    assemble ⟨mnemonicOf op, operand⟩ = some (opcodeNumber op ++ BitVec.ofNat 32 (operand.getD 0)) := by
  rw [assemble_mnemonicOf, assembleOp, if_pos h, Option.map_some, encode_instrOf (wellFormedArg_of_operandFits h), commandWord]

theorem assemble_eq_some {l : AsmLine} {c : Command} (h : assemble l = some c) :
    ∃ op i, mnemonicOf op = l.mnemonic ∧ opcodeOf i = op ∧ c = encode i := by
  unfold assemble at h
  split at h
  · cases h
  · next op hfind =>
    obtain ⟨i, hi, rfl⟩ := Option.map_eq_some_iff.1 h
    have hmn := List.find?_some hfind
    refine ⟨op, i, by simpa using hmn, ?_, rfl⟩
    unfold assembleOp at hi
    split at hi
    · rw [← Option.some.inj hi, opcodeOf_instrOf]
    · cases hi

/-- What the assembler does with an operand, for a format that has one. -/
theorem assemble_some {op : Opcode} (hop : formatOf op ≠ .z) (n : Nat) :
    (n < 2 ^ operandWidth (formatOf op) →
      assemble ⟨mnemonicOf op, some n⟩ = some (opcodeNumber op ++ BitVec.ofNat 32 n)) ∧
    (2 ^ operandWidth (formatOf op) ≤ n → assemble ⟨mnemonicOf op, some n⟩ = none) :=
  ⟨fun h => assemble_of_fits ((operandFits_some_iff _ n).2 ⟨hop, h⟩),
    fun h => assemble_of_not_fits fun hfits => Nat.not_lt.2 h ((operandFits_some_iff _ n).1 hfits).2⟩

/-- Settles O4: an operand is accepted exactly when it is below two to the width of its format. -/
theorem assemblerEmitsOnlyLegalWords : Obligations.AssemblerEmitsOnlyLegalWords := by
  refine ⟨fun l c h => ?_, fun op hz => ⟨?_, fun n => ?_⟩, fun op n hw => ?_, fun op n hh => ?_, fun op n hb => ?_,
    fun op hne => ?_⟩
  · obtain ⟨op, i, hmn, rfl, rfl⟩ := assemble_eq_some h
    exact ⟨i, decodeOfEncode i (wellFormed_true i), hmn⟩
  · exact assemble_of_fits ((operandFits_none_iff _).2 hz)
  · exact assemble_of_not_fits fun h => ((operandFits_some_iff _ n).1 h).1 hz
  · simpa [hw, operandWidth] using assemble_some (by simp [hw]) n (op := op)
  · simpa [hh, operandWidth] using assemble_some (by simp [hh]) n (op := op)
  · simpa [hb, operandWidth] using assemble_some (by simp [hb]) n (op := op)
  · exact assemble_of_not_fits fun h => hne ((operandFits_none_iff _).1 h)

/-! ### The step and the FATAL check (R71, R75) -/

theorem step_of_command {s : State} {c : Command} {rest : List HostInput} (h : s.inputs = .command c :: rest) :
    step s = runCommand c { s with inputs := rest } := by
  simp only [step, serveInput, h]

theorem runCommand_of_decode {c : Command} {i : Instr} (h : decode c = .ok i) (s : State) : runCommand c s = exec i s := by
  simp only [runCommand, h]

/-- Settles O6. -/
theorem stepRunsTheDecodedCommand : Obligations.StepRunsTheDecodedCommand := fun _ _ _ _ hin hdec =>
  (step_of_command hin).trans (runCommand_of_decode hdec _)

/-- The core has taken one command from `s` to `t`: one more response, and the inputs still to come are as they were. -/
def AnsweredOnce (s t : State) : Prop := t.inputs = s.inputs ∧ ∃ r, t.responses = s.responses ++ [r]

/-- A response after a change that leaves the ports alone. -/
theorem answeredOnce_respond {s t : State} (st : Status) (d : Word) (hin : t.inputs = s.inputs)
    (hresp : t.responses = s.responses) : AnsweredOnce s (respond st d t) :=
  ⟨hin, ⟨st, d⟩, by rw [respond_responses, hresp]⟩

theorem answeredOnce_raise (e : CoreError) (info : Word) (s : State) : AnsweredOnce s (raise e info s) := by
  cases e <;> exact answeredOnce_respond _ _ rfl rfl

theorem answeredOnce_appendWord (w : Word) (s : State) : AnsweredOnce s (respond .ok 0#32 (appendWord w s)) := by
  rw [appendWord_frame]
  exact answeredOnce_respond _ _ rfl rfl

theorem answeredOnce_of_effect {i : Instr} {s t : State} (h : Effect s i t) : AnsweredOnce s t := by
  cases h with
  | unseeded | cursorBroken | badLength => exact answeredOnce_raise ..
  | rawLoaded | observedLoaded => exact answeredOnce_appendWord ..
  | drew _ _ _ _ hd => exact answeredOnce_respond _ _ (by rw [hd.frame]) (by rw [hd.frame])
  | _ => exact answeredOnce_respond _ _ rfl rfl

theorem answeredOnce_rejectWord (s : State) : AnsweredOnce s (rejectWord s) := by
  rw [rejectWord, unlessFatal]
  split
  · exact answeredOnce_respond _ _ rfl rfl
  · exact answeredOnce_raise ..

theorem runCommand_answersOnce (c : Command) (s : State) : ∃ t, runCommand c s = .next t ∧ AnsweredOnce s t := by
  obtain ⟨i, -, hc⟩ | ⟨e, -, hc⟩ := runCommand_cases c s
  · obtain ⟨t, ht, heff⟩ := exec_answers_effect i s
    exact ⟨t, hc.trans ht, answeredOnce_of_effect heff⟩
  · exact ⟨_, hc, answeredOnce_rejectWord s⟩

/-- Settles O7: each effect of a command, and the rejection of a word that is none, ends in one response. -/
theorem everyCommandIsAnsweredOnce : Obligations.EveryCommandIsAnsweredOnce := by
  intro s c rest hin
  obtain ⟨t, ht, hinputs, r, hr⟩ := runCommand_answersOnce c { s with inputs := rest }
  exact ⟨t, r, (step_of_command hin).trans ht, hinputs, hr⟩

/-- The FATAL check stands in front of every command's rule but RDSTAT's. -/
theorem exec_eq_unlessFatal {i : Instr} (hi : i ≠ .rdstat) : ∃ body, ∀ s, exec i s = .next (unlessFatal body s) := by
  cases i with
  | rdstat => exact absurd rfl hi
  | _ => exact ⟨_, fun _ => rfl⟩

theorem exec_of_fatal {i : Instr} (hi : i ≠ .rdstat) {s : State} (hf : s.fatal = true) :
    exec i s = .next (respond .errFatal 0#32 s) := by
  obtain ⟨body, hbody⟩ := exec_eq_unlessFatal hi
  rw [hbody, unlessFatal_of_fatal body hf]

/-- Under FATAL a word that is not RDSTAT's is refused, whether or not it is a command's. -/
theorem runCommand_of_fatal {c : Command} (hc : c ≠ encode .rdstat) {s : State} (hf : s.fatal = true) :
    runCommand c s = .next (respond .errFatal 0#32 s) := by
  obtain ⟨i, hdec, hrun⟩ | ⟨e, -, hrun⟩ := runCommand_cases c s <;> rw [hrun]
  · exact exec_of_fatal (fun hi => hc (encodeOfDecode c _ (hi ▸ hdec)).symm) hf
  · rw [rejectWord, unlessFatal_of_fatal _ hf]

/-- Settles O9: only the word of RDSTAT decodes to the one command that has no FATAL check. -/
theorem fatalRefusesAllButRdstat : Obligations.FatalRefusesAllButRdstat := by
  intro s c rest hin hf
  have hword : encode .rdstat = 0x2000000000#40 := by decide
  refine ⟨fun hc => ?_, fun hc => ?_⟩ <;> rw [step_of_command hin]
  · exact runCommand_of_fatal (hword ▸ hc) hf
  · rw [hc, ← hword, runCommand_of_decode (decodeOfEncode _ (wellFormed_true _))]
    rfl

/-! ### The pins (R70, R71, R200) -/

/-- Only an idle core out of reset is ready. -/
theorem cmdReady_iff (k : ClockedCore) (p : PinsIn) :
    (outputPins k p).cmdReady = true ↔ k.phase = .idle ∧ p.rst = false := by
  cases hph : k.phase with
  | idle => simp [outputPins, hph]
  | executing c n => simp [outputPins, hph]
  | answering r => cases hrst : p.rst <;> simp [outputPins, hph, hrst]

/-- Settles O59: only an idle core out of reset is ready, and `rst` decides first at the edge. -/
theorem handshakeHoldsAtThePins : Obligations.HandshakeHoldsAtThePins := by
  intro k p
  refine ⟨fun hne => ?_, fun hrst => ⟨?_, ?_, ?_⟩, fun r hph hrst => ⟨?_, ?_, fun hready => ?_, fun hready => ?_⟩⟩
  · exact Bool.eq_false_iff.2 fun h => hne ((cmdReady_iff k p).1 h).1
  · exact Bool.eq_false_iff.2 fun h => absurd hrst (by simp [((cmdReady_iff k p).1 h).2])
  · cases hph : k.phase <;> simp [outputPins, hph, hrst]
  · simp [clockEdge, hrst]
  · simp [outputPins, hph, hrst]
  · simp [outputPins, hph, hrst]
  · simp [clockEdge, hph, hrst, hready]
  · simp [clockEdge, hph, hrst, hready]

/-- The command in flight ends in its one response, and nothing of the phase before is kept. -/
theorem performCommand_eq {c : Command} {k : ClockedCore} {t : State} {r : Response}
    (hrun : runCommand c { k.core with inputs := [], responses := [] } = .next t) (hr : t.responses = [r]) (ph : Phase) :
    performCommand c { k with phase := ph } =
      { k with core := { t with responses := [] }, phase := .answering (responseWord r) } := by
  simp only [performCommand, hrun, hr]

/-- With no reset, the command is performed when its latency is over, whatever the pins do. -/
theorem clockEdges_waitOrPerform {ps : List PinsIn} (hrst : ∀ q, q ∈ ps → q.rst = false) (c : Command) (k : ClockedCore) :
    ∃ ph, clockEdges ps (waitOrPerform c ps.length k) = performCommand c { k with phase := ph } := by
  induction ps generalizing k with
  | nil => exact ⟨k.phase, rfl⟩
  | cons q qs ih =>
    have hq : q.rst = false := hrst q List.mem_cons_self
    have hedge : clockEdge q (waitOrPerform c (qs.length + 1) k) =
        waitOrPerform c qs.length { k with phase := .executing c qs.length } := by
      simp [clockEdge, waitOrPerform, hq]
    obtain ⟨ph, hph⟩ := ih (fun p hp => hrst p (List.mem_cons_of_mem q hp)) { k with phase := .executing c qs.length }
    exact ⟨ph, by rw [clockEdges, List.length_cons, List.foldl_cons, hedge]; exact hph⟩

/-- Settles O60, by induction on the cycles of the latency. -/
theorem acceptedCommandIsAnswered : Obligations.AcceptedCommandIsAnswered := by
  refine ⟨fun k p hph hrst => (cmdReady_iff k p).2 ⟨hph, hrst⟩, fun k p ps hready hvalid hps hlat => ?_⟩
  obtain ⟨hidle, hrst⟩ := (cmdReady_iff k p).1 hready
  obtain ⟨t, hrun, -, r, hr⟩ := runCommand_answersOnce p.cmd { k.core with inputs := [], responses := [] }
  obtain ⟨ph, hedges⟩ := clockEdges_waitOrPerform hps p.cmd { k with accepted := k.accepted + 1 }
  have hone : t = { t with responses := [r] } := by rw [← hr.trans (List.nil_append _)]
  refine ⟨t, r, statusCode r.status, congrArg statusCode, congrArg statusCode, congrArg statusCode, congrArg statusCode,
    congrArg statusCode, ?_, ?_⟩
  · rw [← hone]
    exact (step_of_command rfl).trans hrun
  · have haccept : clockEdge p k = waitOrPerform p.cmd ps.length { k with accepted := k.accepted + 1 } := by
      simp [clockEdge, hrst, hidle, hvalid, hlat]
    rw [clockEdges, List.foldl_cons, haccept]
    exact hedges.trans (performCommand_eq (k := { k with accepted := k.accepted + 1 }) hrun hr ph)

/-! ### Bytes of the output stream (R150, R154) -/

/-- Byte `m` of the output stream of a generator: four to a word, the most significant first (R154). -/
def streamByte (mt : Words) (m : Nat) : Byte := (temper (streamWord mt (m / 4))).extractLsb' (24 - 8 * (m % 4)) 8

/-- A core whose next byte is byte `m` of the stream: the bytes it holds are the rest of the word that byte stands in, and
its next word is the one after them (R57, R150). -/
structure ReadsBytesFrom (mt : Words) (m : Nat) (s : State) : Prop where
  words : ReadsFrom mt ((m + 3) / 4) s
  held  : m + s.ksn.toNat = 4 * ((m + 3) / 4)
  word  : s.ksn ≠ 0#3 → s.ksw = temper (streamWord mt (m / 4))

section Bytes
variable {mt : Words} {m n : Nat} {s : State}

/-- At a word boundary the next byte is the first of the next word. -/
theorem readsBytesFrom_of_none_held (h : ReadsFrom mt n s) (hk : s.ksn = 0#3) : ReadsBytesFrom mt (4 * n) s where
  words := by rwa [show (4 * n + 3) / 4 = n by omega]
  held := by rw [hk, show (4 * n + 3) / 4 = n by omega]; rfl
  word hne := absurd hk hne

/-- Delivering a byte of the held word. -/
theorem readsBytesFrom_takeByte (h : ReadsFrom mt (m / 4 + 1) s) (hk : m % 4 + s.ksn.toNat = 4)
    (hw : s.ksw = temper (streamWord mt (m / 4))) :
    takeByte s = (streamByte mt m, (takeByte s).2) ∧ ReadsBytesFrom mt (m + 1) (takeByte s).2 := by
  have hr := Nat.mod_lt m (show 0 < 4 by decide)
  have hpred : (takeByte s).2.ksn.toNat = s.ksn.toNat - 1 := by rw [takeByte_ksn]; bv_omega
  refine ⟨?_, ?_, ?_, fun hne => ?_⟩
  · rw [← Prod.mk.eta (p := takeByte s), takeByte_byte, byteOfWord, hw, streamByte,
      show 8 * s.ksn.toNat - 8 = 24 - 8 * (m % 4) by omega]
  · rw [show (m + 1 + 3) / 4 = m / 4 + 1 by omega]
    exact { h with }
  · omega
  · have hpos : (takeByte s).2.ksn.toNat ≠ 0 := fun h0 => hne (BitVec.eq_of_toNat_eq h0)
    rw [takeByte_ksw, hw, show (m + 1) / 4 = m / 4 by omega]

theorem readsBytesFrom_nextByte (h : ReadsBytesFrom mt m s) :
    ∃ t, nextByte s = .ok (streamByte mt m, t) ∧ ReadsBytesFrom mt (m + 1) t := by
  obtain ⟨hwords, hheld, hword⟩ := h
  by_cases hk : s.ksn = 0#3
  · have hm : m + 0 = 4 * ((m + 3) / 4) := by rwa [hk] at hheld
    rw [show (m + 3) / 4 = m / 4 by omega] at hwords
    obtain ⟨t, he, ht⟩ := readsFrom_extract hwords
    obtain ⟨hbyte, hnext⟩ := readsBytesFrom_takeByte (m := m)
      (s := { t with ksw := temper (streamWord mt (m / 4)), ksn := 4#3 }) { ht with } (by simp; omega) rfl
    exact ⟨_, by rw [nextByte_of_none_held hk, he, ← hbyte]; rfl, hnext⟩
  · have hpos : s.ksn.toNat ≠ 0 := fun h0 => hk (BitVec.eq_of_toNat_eq h0)
    rw [show (m + 3) / 4 = m / 4 + 1 by omega] at hwords
    obtain ⟨hbyte, hnext⟩ := readsBytesFrom_takeByte hwords (by omega) (hword hk)
    exact ⟨_, (nextByte_of_held hk).trans (congrArg _ hbyte), hnext⟩

/-- XORB answers the data byte xored with the stream's next byte (R152). -/
theorem readsBytesFrom_send_xorb (h : ReadsBytesFrom mt m s) (d : Byte) :
    ∃ t, send (.xorb d) s = some (⟨.ok, zextByte (d ^^^ streamByte mt m)⟩, t) ∧ ReadsBytesFrom mt (m + 1) t := by
  obtain ⟨t, hnext, ht⟩ := readsBytesFrom_nextByte h
  have hdraw : drawByteXor d s = .ok (zextByte (d ^^^ streamByte mt m), t) := by rw [drawByteXor_eq_map, hnext]; rfl
  have hexec : exec (.xorb d) s = .next (respond .ok (zextByte (d ^^^ streamByte mt m)) t) := by
    rw [exec, execXorb, unlessFatal_of_not_fatal _ h.words.live, answerDraw_of_ok h.words.seeded hdraw]
  exact ⟨_, send_of_exec hexec (respond_responses ..), { ht with words := { ht.words with } }⟩

/-! ### Messages (R155) -/

/-- The data xored with the stream from byte `m` on (R155). -/
def xorStream (mt : Words) (m : Nat) (data : List Byte) : List Byte := data.mapIdx fun j d => d ^^^ streamByte mt (m + j)

theorem xorStream_cons (mt : Words) (m : Nat) (d : Byte) (data : List Byte) :
    xorStream mt m (d :: data) = (d ^^^ streamByte mt m) :: xorStream mt (m + 1) data := by
  simp only [xorStream, List.mapIdx_cons, Nat.add_zero, Nat.add_assoc, Nat.add_comm 1]

/-- The response that delivers a byte. -/
def byteResponse (b : Byte) : Response := ⟨.ok, zextByte b⟩

theorem responseByte_byteResponse (b : Byte) : responseByte (byteResponse b) = b :=
  (BitVec.setWidth_setWidth_of_le b (by decide : 8 ≤ 32)).trans (BitVec.setWidth_eq b)

theorem readsBytesFrom_sendAll_xorb (data : List Byte) (h : ReadsBytesFrom mt m s) :
    ∃ t, sendAll (data.map .xorb) s = some ((xorStream mt m data).map byteResponse, t) := by
  induction data generalizing m s with
  | nil => exact ⟨s, rfl⟩
  | cons d data ih =>
    obtain ⟨u, hsend, hu⟩ := readsBytesFrom_send_xorb h d
    obtain ⟨t, hall⟩ := ih hu
    refine ⟨t, ?_⟩
    rw [List.map_cons, sendAll_cons_of_ok hsend, hall, xorStream_cons]
    rfl

/-- A message sent with a seeding that is answered OK and leaves the core before byte `m` of a stream. -/
theorem encryptWith_of_send {seeding : Instr} {u : State} {w : Word} (hsend : send seeding s = some (⟨.ok, w⟩, u))
    (hu : ReadsBytesFrom mt m u) (data : List Byte) :
    ∃ t, encryptWith seeding data s = some (.ok (xorStream mt m data), t) := by
  obtain ⟨t, hall⟩ := readsBytesFrom_sendAll_xorb data hu
  have hok : ∀ r, r ∈ (⟨.ok, w⟩ :: (xorStream mt m data).map byteResponse : List Response) → r.status = .ok := by
    intro r hr
    obtain rfl | hr := List.mem_cons.1 hr
    · rfl
    · obtain ⟨b, -, rfl⟩ := List.mem_map.1 hr
      rfl
  refine ⟨t, ?_⟩
  simp only [encryptWith, sendAll_cons_of_ok hsend, hall, Option.map_some, replyBytes, reported_of_ok hok, Except.map,
    List.map_cons, List.tail_cons, List.map_map, Function.comp_def, responseByte_byteResponse, List.map_id']

end Bytes

theorem exec_seed_of_not_fatal (w : Word) {s : State} (hf : s.fatal = false) :
    exec (.seed w) s = .next (respond .ok 0#32 (installGenerator (seedExpand w) s)) :=
  congrArg Host.Outcome.next (unlessFatal_of_not_fatal _ hf)

/-- A generator just installed stands at the end of its array, before word 624 of its stream, with no byte held. -/
theorem readsFrom_installGenerator (a : Words) {s : State} (hf : s.fatal = false) :
    ReadsFrom a 624 (respond .ok 0#32 (installGenerator a s)) :=
  ⟨hf, rfl, by simp, 0, rfl, by simp⟩

theorem encryptWith_of_fatal {seeding : Instr} (hi : seeding ≠ .rdstat) (data : List Byte) {s : State}
    (hf : s.fatal = true) : ∃ t, encryptWith seeding data s = some (.error ⟨.errFatal, 0#32⟩, t) := by
  have hsend := send_of_exec (exec_of_fatal hi hf) (respond_responses ..)
  have hall := sendAll_cons_of_error (is := data.map .xorb) hsend nofun
  have hrep := reported_of_error (rs := []) (qs := []) (r := ⟨.errFatal, 0#32⟩) nofun nofun
  rw [List.nil_append] at hrep
  exact ⟨_, by simp only [encryptWith, hall, replyBytes, hrep, Except.map]; rfl⟩

/-- Settles O36: XORB reads the bytes of the words that EXTRACT would answer after the seeding. -/
theorem encryptIsXorWithTheKeystream : Obligations.EncryptIsXorWithTheKeystream := by
  intro k data s
  refine ⟨fun hf => ?_, fun hf => encryptWith_of_fatal (seeding := .seed k) nofun data hf⟩
  have hexec := exec_seed_of_not_fatal k hf
  have hreads := readsFrom_installGenerator (seedExpand k) hf
  obtain ⟨t, ht⟩ := encryptWith_of_send (send_of_exec hexec (respond_responses ..))
    (readsBytesFrom_of_none_held hreads rfl) data
  refine ⟨_, t, _, hexec, ht, by simp [xorStream], fun j d hd => ⟨_, readsFrom_outputWord (j / 4) hreads, ?_⟩⟩
  simp only [xorStream, List.getElem?_mapIdx, hd, Option.map_some, streamByte, Nat.mul_add_mod,
    Nat.mul_add_div (show 0 < 4 by decide)]

/-! ### Loading a generator from its words (R83, R141, R143, R144) -/

theorem loads_ldraw : Loads .ldraw id := fun _ _ hf => congrArg Host.Outcome.next (unlessFatal_of_not_fatal _ hf)

/-- A live core that came from `s` by loading `n` words: only the load buffer and the response port moved (R141). -/
structure LoadedFrom (s : State) (n : Nat) (t : State) : Prop where
  frame : t = { s with lb := t.lb, lcnt := t.lcnt, responses := t.responses }
  count : t.lcnt.toNat = min n 625

section Loading
variable {s t : State} {n : Nat}

theorem loadedFrom_appendWord (h : LoadedFrom s n t) (w : Word) :
    LoadedFrom s (n + 1) (respond .ok 0#32 (appendWord w t)) := by
  obtain ⟨hframe, hcount⟩ := h
  constructor
  · rw [appendWord_frame, hframe]
    rfl
  · obtain ⟨hlt, ha⟩ | ⟨hge, ha⟩ := appendWord_cases w t <;> rw [ha, respond_lcnt]
    · bv_omega
    · simp
      omega

theorem loadedFrom_fatal (h : LoadedFrom s n t) : t.fatal = s.fatal := by rw [h.frame]

/-- Loading any number of words is answered OK throughout. -/
theorem sendAll_ldraw (ws : List Word) (hf : s.fatal = false) (h : LoadedFrom s n t) :
    ∃ u, sendAll (ws.map .ldraw) t = some (List.replicate ws.length ⟨.ok, 0#32⟩, u) ∧ LoadedFrom s (n + ws.length) u := by
  induction ws generalizing n t with
  | nil => exact ⟨t, rfl, h⟩
  | cons w ws ih =>
    have hsend := send_of_exec (loads_ldraw w t ((loadedFrom_fatal h).trans hf)) (respond_responses ..)
    obtain ⟨u, hall, hu⟩ := ih (loadedFrom_appendWord h w)
    refine ⟨u, ?_, by rwa [List.length_cons, Nat.add_comm ws.length, ← Nat.add_assoc]⟩
    rw [List.map_cons, sendAll_cons_of_ok hsend]
    exact congrArg (Option.map _) hall

end Loading

theorem sendAll_singleton {i : Instr} {s t : State} {r : Response} (h : send i s = some (r, t)) :
    sendAll [i] s = some ([r], t) := by
  simp [sendAll, h]

/-- FROMSTATE loads its words, answered OK, and ends as LDCOMMIT does on what is loaded. -/
theorem runPseudo_fromState (ws : List Word) {s : State} (hf : s.fatal = false) :
    ∃ t, LoadedFrom s ws.length t ∧ (ws.length ≤ 624 → LoadHolds ws t) ∧
      ∀ st d v, commitLoad t = respond st d v →
        runPseudo (.fromState ws) s =
          some (⟨.ok, 0#32⟩ :: (List.replicate ws.length ⟨.ok, 0#32⟩ ++ [⟨st, d⟩]), respond st d v) := by
  have hbegin : send .ldbegin s = some (⟨.ok, 0#32⟩, respond .ok 0#32 { s with lcnt := 0#10 }) :=
    send_of_exec (congrArg Host.Outcome.next (unlessFatal_of_not_fatal _ hf)) (respond_responses ..)
  have hstart : LoadedFrom s 0 (respond .ok 0#32 { s with lcnt := 0#10 }) := ⟨rfl, rfl⟩
  obtain ⟨t, hall, ht⟩ := sendAll_ldraw ws hf hstart
  rw [Nat.zero_add] at ht
  refine ⟨t, ht, fun hlen => ?_, fun st d v hcommit => ?_⟩
  · obtain ⟨t', hall', ht'⟩ := sendAll_loads loads_ldraw ws (us := []) (s := respond .ok 0#32 { s with lcnt := 0#10 })
      ⟨hf, rfl, nofun⟩ (by simpa using hlen)
    rw [hall] at hall'
    obtain ⟨-, rfl⟩ := Prod.mk.inj (Option.some.inj hall')
    simpa using ht'
  · have hexec : exec .ldcommit t = .next (respond st d v) :=
      congrArg Host.Outcome.next ((unlessFatal_of_not_fatal _ ((loadedFrom_fatal ht).trans hf)).trans hcommit)
    have hlast := sendAll_singleton (send_of_exec hexec (respond_responses ..))
    rw [runPseudo, expand, List.cons_append, sendAll_cons_of_ok hbegin,
      sendAll_append hall fun r hr => by rw [List.eq_of_mem_replicate hr], hlast]
    rfl

/-- Settles O44: 624 words are loaded exactly when LDCOMMIT finds the count 624. -/
theorem fromStateNeedsExactly624Words : Obligations.FromStateNeedsExactly624Words := by
  intro ws s hf
  obtain ⟨t, ⟨hframe, hcount⟩, hholds, hrun⟩ := runPseudo_fromState ws hf
  refine ⟨fun hlen => ?_, fun hlen => ?_⟩ <;> obtain ⟨hl, hc⟩ | ⟨hl, hc⟩ := commitLoad_cases t
  · refine ⟨_, _, hrun _ _ _ hc, fun r hr => ?_, fun i hi => (hholds hlen.le).words i (hlen ▸ hi), rfl, rfl, rfl⟩
    simp only [List.mem_cons, List.mem_append, List.mem_replicate, List.not_mem_nil, or_false] at hr
    obtain hr | ⟨-, hr⟩ | hr := hr <;> exact hr
  · exact absurd (BitVec.eq_of_toNat_eq (hcount.trans (by rw [hlen]; rfl))) hl
  · rw [hl] at hcount
    exact absurd hcount (by simp; omega)
  · have hdata : zextCount t.lcnt = BitVec.ofNat 32 (min ws.length 625) := by
      rw [← hcount, zextCount, ← BitVec.ofNat_toNat]
    rw [raise_invalidStateLength, hdata] at hc
    refine ⟨_, _, hrun _ _ _ hc, by simp [List.getLast?_cons], ?_, ?_, ?_, ?_, ?_, rfl⟩ <;> (rw [hframe]; rfl)

end Sys2Proof

/-! SUPPORT. The statements about seeding (spec/40_seed_expander.md): what the seed chain leaves in each word, what SEED and
SEED16 do to the core, and the windowed SeedSearch, whose candidates are seconds given to SEED (spec/46_seed_search.md R162). -/

namespace Sys2Proof

open Sys2Proof.Machine

/-! ### The seed chain (R100) -/

theorem wordAt_seedExpand (s : Word) {i : Nat} (hi : i < N) :
    wordAt (seedExpand s) i = (seedWords N 1 s)[i]'(by rwa [seedWords_length]) := by
  simp [wordAt, seedExpand, Nat.mod_eq_of_lt hi]

theorem wordAt_seedExpand_zero (s : Word) : wordAt (seedExpand s) 0 = s := wordAt_seedExpand s (by decide)

theorem wordAt_seedExpand_succ (s : Word) {k : Nat} (hk : k + 1 < N) :
    wordAt (seedExpand s) (k + 1) = seedNext (wordAt (seedExpand s) k) (k + 1) := by
  rw [wordAt_seedExpand s hk, wordAt_seedExpand s (by omega), seedWords_getElem_succ N 1 k s hk, Nat.add_comm 1 k]

/-- Settles O13: the words are the seed chain, each element of which comes from the one before it. -/
theorem seedExpandFollowsTheRecurrence : Obligations.SeedExpandFollowsTheRecurrence := by
  refine fun s => ⟨wordAt_seedExpand_zero s, fun i hpos hi => ?_⟩
  obtain ⟨k, rfl⟩ := Nat.exists_eq_succ_of_ne_zero (Nat.ne_of_gt hpos)
  exact wordAt_seedExpand_succ s hi

/-! ### SEED and SEED16 (R101, R102) -/

theorem exec_seed_of_fatal (w : Word) {s : State} (hf : s.fatal = true) :
    exec (.seed w) s = .next (respond .errFatal 0#32 s) :=
  exec_of_fatal (i := .seed w) nofun hf

/-- Settles O14. -/
theorem seedMakesAFreshGenerator : Obligations.SeedMakesAFreshGenerator := fun w _ =>
  ⟨rfl, exec_seed_of_not_fatal w, exec_seed_of_fatal w⟩

/-- SEED16 runs as SEED of the zero-extended key (R102). -/
theorem exec_seed16 (k : BitVec 16) (s : State) : exec (.seed16 k) s = exec (.seed (0#16 ++ k)) s := by
  rw [← zextKey_eq_append]
  rfl

theorem encode_seed16 (k : BitVec 16) : encode (.seed16 k) = 0x02#8 ++ 0#16 ++ k := by
  have hword : encode (.seed16 k) = 0x02#8 ++ zextKey k := rfl
  rw [hword, zextKey_eq_append, BitVec.append_assoc']
  rfl

/-- Settles O15: the zero-extended key is the key below 16 zero bits. -/
theorem seed16IsSeedOfTheZeroExtendedKey : Obligations.Seed16IsSeedOfTheZeroExtendedKey := fun k s =>
  ⟨encode_seed16 k, exec_seed16 k s, fun hf => (exec_seed16 k s).trans (exec_seed_of_not_fatal _ hf)⟩

/-- Settles O16: SEED16 is a SEED, and SEED is refused or installs a generator. -/
theorem seedFrame : Obligations.SeedFrame := by
  intro i s t hi hexec
  obtain ⟨w, hw⟩ : ∃ w, exec i s = exec (.seed w) s := by
    obtain ⟨w, rfl⟩ | ⟨k, rfl⟩ := hi
    · exact ⟨w, rfl⟩
    · exact ⟨_, exec_seed16 k s⟩
  rw [hw] at hexec
  cases hf : s.fatal with
  | true =>
    rw [exec_seed_of_fatal w hf] at hexec
    cases hexec
    simp [hf]
  | false =>
    rw [exec_seed_of_not_fatal w hf] at hexec
    cases hexec
    simp [hf]

/-! ### Decrypting under a seed (R155, R156) -/

/-- The data decrypted under seed `w`: SEED leaves the core before byte 4 * 624 of the stream of `seedExpand w`. -/
def decryptedUnder (w : Word) (data : List Byte) : List Byte := xorStream (seedExpand w) (4 * 624) data

/-- A core that has just been seeded with `w`. -/
theorem send_seed (w : Word) {s : State} (hf : s.fatal = false) :
    ∃ t, send (.seed w) s = some (⟨.ok, 0#32⟩, t) ∧ ReadsBytesFrom (seedExpand w) (4 * 624) t :=
  ⟨_, send_of_exec (exec_seed_of_not_fatal w hf) (respond_responses ..),
    readsBytesFrom_of_none_held (readsFrom_installGenerator _ hf) rfl⟩

theorem encryptWith_seed (w : Word) (data : List Byte) {s : State} (hf : s.fatal = false) :
    ∃ t, encryptWith (.seed w) data s = some (.ok (decryptedUnder w data), t) := by
  obtain ⟨u, hsend, hu⟩ := send_seed w hf
  exact encryptWith_of_send hsend hu data

/-- Bytes sent by XORB move the core on by as many bytes of its stream. -/
theorem readsBytesFrom_of_sendAll_xorb {mt : Words} {m : Nat} {s t : State} {rs : List Response} {data : List Byte}
    (h : ReadsBytesFrom mt m s) (hall : sendAll (data.map .xorb) s = some (rs, t)) :
    ReadsBytesFrom mt (m + data.length) t := by
  induction data generalizing m s rs with
  | nil => cases hall; exact h
  | cons d data ih =>
    obtain ⟨u, hsend, hu⟩ := readsBytesFrom_send_xorb h d
    rw [List.map_cons, sendAll_cons_of_ok hsend] at hall
    obtain ⟨⟨qs, v⟩, htail, heq⟩ := Option.map_eq_some_iff.1 hall
    cases heq
    rw [List.length_cons, Nat.add_comm data.length, ← Nat.add_assoc]
    exact ih hu htail

theorem replyBytes_map_byteResponse (bs : List Byte) : replyBytes (bs.map byteResponse) = .ok bs := by
  have hok : ∀ r, r ∈ bs.map byteResponse → r.status = .ok := by
    intro r hr
    obtain ⟨b, -, rfl⟩ := List.mem_map.1 hr
    rfl
  simp only [replyBytes, reported_of_ok hok, Except.map, List.map_map, Function.comp_def, responseByte_byteResponse,
    List.map_id']

/-! ### The windowed SeedSearch (R162 to R164) -/

/-- Whether the ciphertext decrypted under second `j` ends with the marker (R162). -/
def secondPasses (cipher marker : List Byte) (j : Nat) : Bool :=
  (decryptedUnder (seedOfTime j) cipher).drop (cipher.length - marker.length) == marker

/-- What the host can see of a second: its decryption ends with the marker exactly when `secondPasses`. -/
theorem secondPasses_iff (cipher marker : List Byte) (j : Nat) {s : State} (hf : s.fatal = false) :
    secondPasses cipher marker j = true ↔
      ∃ out t, encryptWith (.seed (BitVec.ofNat 32 j)) cipher s = some (.ok out, t) ∧
        out.drop (cipher.length - marker.length) = marker := by
  obtain ⟨u, hu⟩ := encryptWith_seed (seedOfTime j) cipher hf
  rw [secondPasses, beq_iff_eq]
  constructor
  · exact fun h => ⟨_, u, hu, h⟩
  · rintro ⟨out, t, ht, h⟩
    cases hu.symm.trans ht
    exact h

/-- The test of one second on a core that has just been seeded with it. -/
theorem endsWithMarker_of_reads (cipher marker : List Byte) {j : Nat} {s : State}
    (h : ReadsBytesFrom (seedExpand (seedOfTime j)) (4 * 624) s) :
    ∃ t, endsWithMarker cipher marker s =
      some (if secondPasses cipher marker j then .passed else .mismatch, t) ∧ t.fatal = false := by
  obtain ⟨t, hall⟩ := readsBytesFrom_sendAll_xorb cipher h
  refine ⟨t, ?_, (readsBytesFrom_of_sendAll_xorb h hall).words.live⟩
  simp only [endsWithMarker, hall, replyBytes_map_byteResponse, secondPasses, beq_iff_eq, decryptedUnder]

/-- On live cores every second is seeded and tested, and the core stays live. -/
theorem answers_seedSecond (cipher marker : List Byte) :
    Answers seedSecond (endsWithMarker cipher marker) (secondPasses cipher marker) (·.fatal = false) := by
  intro j s hf
  obtain ⟨t, hsend, ht⟩ := send_seed (seedOfTime j) hf
  obtain ⟨u, htest, hu⟩ := endsWithMarker_of_reads cipher marker ht
  exact ⟨_, t, u, hsend, htest, hu⟩

/-- A search whose first seeding is refused ends there, with the refusal (R163). -/
theorem searchFrom_of_refused {seeding : Nat → Instr} {test : State → Option (TestResult × State)} {n k : Nat} {s t : State}
    {r : Response} (hn : n ≠ 0) (hsend : send (seeding k) s = some (r, t)) (hr : r.status ≠ .ok) :
    searchFrom seeding test n k s = some (.failed r, t) := by
  obtain ⟨n, rfl⟩ := Nat.exists_eq_succ_of_ne_zero hn
  simp [searchFrom, hsend, hr]

/-- Settles O57: on live cores the search reports the first second that passes, on one core or spread over several; under
FATAL its first seeding is refused. -/
theorem windowSearchFindsTheEarliestSecond : Obligations.WindowSearchFindsTheEarliestSecond := by
  refine ⟨fun lo hi cipher marker s hf _ => ?_, fun lo hi cipher marker s hf hle => ?_⟩
  · have hans := answers_seedSecond cipher marker
    obtain ⟨u, hone, -⟩ := searchFrom_eq hans (hi + 1 - lo) lo hf
    simp only [← secondPasses_iff _ _ _ hf, Bool.not_eq_true]
    refine ⟨?_, fun cores hne hlive => ?_⟩
    · obtain ⟨j, hfound, hlo, hhi, hj, hlow⟩ | ⟨hnone, hall⟩ :=
        firstFrom_cases (secondPasses cipher marker) (hi + 1 - lo) lo
      · exact .inl ⟨j, u, hone.trans (by rw [hfound]), hlo, by omega, hj, hlow⟩
      · exact .inr ⟨u, hone.trans (by rw [hnone]), fun i h1 h2 => hall i h1 (by omega)⟩
    · obtain ⟨us, hspread⟩ := searchSpread_eq hans (hi + 1 - lo) lo hne hlive
      rw [seedSearchWindowParallel, seedSearchWindow, hspread, hone]
      rfl
  · have hsend : send (seedSecond lo) s = _ := send_of_exec (exec_seed_of_fatal _ hf) (respond_responses ..)
    exact ⟨_, searchFrom_of_refused (by omega) hsend nofun⟩

end Sys2Proof

/-! SUPPORT. The statements about the twist (spec/41_twist_engine.md) and about EXTRACT. Which words of the pass are old and
which are new is read off the one recurrence of the raw words (R111, R114). -/

namespace Sys2Proof

open Sys2Proof.Machine

/-! ### One recurrence across a twist (R110, R114) -/

/-- The twist's conditional xor is an xor with A or with zero. -/
theorem twistMix_eq_g (x : Word) : twistMix x = g x := by
  unfold twistMix g
  split
  · rfl
  · rw [BitVec.xor_zero]

/-- Settles O18. -/
theorem rawWordsFollowOneRecurrence : Obligations.RawWordsFollowOneRecurrence := by
  intro mt k hk
  rw [rawWord_recurrence mt hk, twistMix_eq_g]
  rfl

/-- Settles O17: a raw word below 624 is an old word, one from 624 on is a new one. -/
theorem twistReadsOldAndNewWords : Obligations.TwistReadsOldAndNewWords := by
  intro mt
  have hword (i : Nat) (hi : i < 624) := rawWordsFollowOneRecurrence mt i hi
  simp only [rawWord_of_ge mt (Nat.le_add_left 624 _), Nat.add_sub_cancel] at hword
  refine ⟨fun i hi => ?_, fun i hlo hhi => ?_, ?_⟩
  · rw [hword i (by omega), rawWord_of_lt mt (by omega), rawWord_of_lt mt (by omega), rawWord_of_lt mt (by omega)]
  · rw [hword i (by omega), rawWord_of_ge mt (by omega), rawWord_of_lt mt (by omega), rawWord_of_lt mt (by omega),
      show i + 397 - 624 = i - 227 by omega]
  · rw [hword 623 (by decide), rawWord_of_ge mt (by decide), rawWord_of_lt mt (by decide), rawWord_of_ge mt (by decide)]

/-! ### The dead bits of word 0 (R112, R114) -/

/-- The upper mask keeps bit 31 and nothing else. -/
theorem and_upperMask (x : Word) : x &&& upperMask = if x.getLsbD 31 then upperMask else 0#32 := by
  rw [show upperMask = BitVec.twoPow 32 31 by decide]
  exact BitVec.and_twoPow x 31

/-- Of its first word the twist reads bit 31 only (R112). -/
theorem twistJoin_congr {x y : Word} (h : x.getLsbD 31 = y.getLsbD 31) (lo : Word) : twistJoin x lo = twistJoin y lo := by
  rw [twistJoin, twistJoin, and_upperMask, and_upperMask, h]

/-- Two arrays that agree but for the low 31 bits of word 0 have the same raw words from word 1 on. -/
theorem rawWord_eq_of_live {a b : Words} (hwords : ∀ i, 1 ≤ i → i < 624 → wordAt a i = wordAt b i)
    (hbit : (wordAt a 0).getLsbD 31 = (wordAt b 0).getLsbD 31) (k : Nat) (hpos : 1 ≤ k) (hk : k < 1248) :
    rawWord a k = rawWord b k := by
  induction k using Nat.strong_induction_on with
  | _ k ih =>
    rcases Nat.lt_or_ge k 624 with hold | hnew
    · rw [rawWord_of_lt a hold, rawWord_of_lt b hold, hwords k hpos hold]
    · obtain ⟨j, rfl⟩ := Nat.exists_eq_add_of_le' hnew
      have htop : (rawWord a j).getLsbD 31 = (rawWord b j).getLsbD 31 := by
        rcases Nat.eq_zero_or_pos j with rfl | hj
        · exact hbit
        · rw [ih j (by omega) hj (by omega)]
      rw [rawWord_recurrence a (by omega), rawWord_recurrence b (by omega), twistJoin_congr htop,
        ih (j + 397) (by omega) (by omega) (by omega), ih (j + 1) (by omega) (by omega) (by omega)]

/-- Settles O19: the twisted array is the raw words from 624 on. -/
theorem lowBitsOfWordZeroAreDead : Obligations.LowBitsOfWordZeroAreDead := by
  intro a b hwords hbit
  refine words_ext fun i (hi : i < 624) => ?_
  have hraw := rawWord_eq_of_live hwords hbit (i + 624) (by omega) (by omega)
  rwa [rawWord_of_ge a (by omega), rawWord_of_ge b (by omega), Nat.add_sub_cancel] at hraw

/-! ### EXTRACT (R113, R123, R124) -/

/-- Settles O26: below 624 the draw is `takeWord`, at 624 it is `takeWord` of the twisted state. -/
theorem extractAnswersTheNextWord : Obligations.ExtractAnswersTheNextWord := fun _ =>
  ⟨rfl,
    fun hf hv hi => exec_extract_of_ok hf hv (extract_of_lt hi),
    fun hf hv hi => exec_extract_of_ok hf hv (extract_of_eq hi),
    exec_of_fatal (i := .extract) nofun⟩

end Sys2Proof

/-! SUPPORT. The statements about tempering (spec/42_temper_extract.md). -/

namespace Sys2Proof

open Sys2Proof.Machine

/-! ### Tempering (R120, R121, R122) -/

theorem and_xor_distrib_right {w : Nat} (a b m : BitVec w) : (a ^^^ b) &&& m = (a &&& m) ^^^ (b &&& m) := by
  refine BitVec.eq_of_getLsbD_eq fun j _ => ?_
  simp only [BitVec.getLsbD_and, BitVec.getLsbD_xor, Bool.and_xor_distrib_right]

/-- A step xors a word with its shifted and masked image, and shift and mask are linear (R120). -/
theorem stepRight_xor (a b : Word) (k : Nat) (m : Word) : stepRight (a ^^^ b) k m = stepRight a k m ^^^ stepRight b k m := by
  rw [stepRight, stepRight, stepRight, BitVec.ushiftRight_xor_distrib, and_xor_distrib_right]
  ac_rfl

theorem stepLeft_xor (a b : Word) (k : Nat) (m : Word) : stepLeft (a ^^^ b) k m = stepLeft a k m ^^^ stepLeft b k m := by
  rw [stepLeft, stepLeft, stepLeft, BitVec.shiftLeft_xor_distrib, and_xor_distrib_right]
  ac_rfl

/-- Settles O20: each of the four steps is linear. -/
theorem temperIsLinear : Obligations.TemperIsLinear := by
  refine ⟨by decide, fun a b => ?_⟩
  simp only [temper_eq_steps, stepRight_xor, stepLeft_xor]

/-- Settles O23: behind the FATAL check TEMPER only responds. -/
theorem temperAnswersTheFourSteps : Obligations.TemperAnswersTheFourSteps := by
  intro v s
  refine ⟨rfl, fun hf => ?_, exec_of_fatal (i := .temper v) nofun⟩
  exact congrArg Host.Outcome.next (unlessFatal_of_not_fatal _ hf)

end Sys2Proof

/-! SUPPORT. The statements about untempering (spec/43_untemper.md). `untemper_temper` makes the tempering injective, so on
the finite set of words it is a bijection and its inverse is two-sided; the whole-word form is checked on tempered words. -/

namespace Sys2Proof

open Sys2Proof.Machine

/-! ### The two inverse laws (R130) -/

/-- An injective map of a finite set into itself is onto. -/
theorem temper_surjective : Function.Surjective temper :=
  Finite.surjective_of_injective (Function.LeftInverse.injective untemper_temper)

theorem temper_untemper (z : Word) : temper (untemper z) = z :=
  Function.LeftInverse.rightInverse_of_surjective untemper_temper temper_surjective z

/-- Settles O21. -/
theorem untemperAndTemperAreInverse : Obligations.UntemperAndTemperAreInverse := ⟨untemper_temper, temper_untemper⟩

/-! ### The whole-word form (R133) -/

/-- The shifts of a right-shift step telescope: three terms undo it when the third shift leaves the word. -/
theorem xor_ushiftRight_stepRight (y : Word) {k : Nat} (hk : 32 ≤ 3 * k) :
    stepRight y k fullMask ^^^ (stepRight y k fullMask >>> k) ^^^ (stepRight y k fullMask >>> (2 * k)) = y := by
  refine BitVec.eq_of_getLsbD_eq fun j hj => ?_
  have hbit (i : Nat) : (stepRight y k fullMask).getLsbD i = (y.getLsbD i ^^ y.getLsbD (i + k)) := by
    rw [stepRight, show y >>> k &&& fullMask = y >>> k from BitVec.and_allOnes, BitVec.getLsbD_xor,
      BitVec.getLsbD_ushiftRight, Nat.add_comm]
  have hout : y.getLsbD (2 * k + j + k) = false := BitVec.getLsbD_of_ge _ _ (by omega)
  simp only [BitVec.getLsbD_xor, BitVec.getLsbD_ushiftRight, hbit, hout]
  rw [show k + j + k = 2 * k + j by omega, Nat.add_comm k j]
  simp

/-- Two terms are enough for a shift by half a word or more. -/
theorem xor_ushiftRight_stepRight_of_half (y : Word) {k : Nat} (hk : 16 ≤ k) :
    stepRight y k fullMask ^^^ (stepRight y k fullMask >>> k) = y := by
  have h := xor_ushiftRight_stepRight y (k := k) (by omega)
  rwa [BitVec.ushiftRight_eq_zero (by omega : 32 ≤ 2 * k), BitVec.xor_zero] at h

/-- The bits of `x` below `n` are those of `y`. -/
def AgreeBelow (n : Nat) (x y : Word) : Prop := ∀ j < n, x.getLsbD j = y.getLsbD j

theorem AgreeBelow.eq {n : Nat} {x y : Word} (h : AgreeBelow n x y) (hn : 32 ≤ n) : x = y :=
  BitVec.eq_of_getLsbD_eq fun j hj => h j (by omega)

/-- One window of R133: the left-shift step undone, with `t` for the word that is sought. -/
def undoLeftWindow (z : Word) (k : Nat) (m t : Word) : Word := z ^^^ ((t <<< k) &&& m)

/-- A left-shift step keeps the bits below the lowest bit of its mask. -/
theorem agreeBelow_stepLeft {n : Nat} {m : Word} (hm : ∀ j < n, m.getLsbD j = false) (y : Word) (k : Nat) :
    AgreeBelow n (stepLeft y k m) y := fun j hj => by
  rw [stepLeft, BitVec.getLsbD_xor, BitVec.getLsbD_and, hm j hj, Bool.and_false, Bool.xor_false]

/-- A window makes the next `k` bits final: of `t` it reads only bits that already are (R133). -/
theorem AgreeBelow.window {n : Nat} {t y : Word} (h : AgreeBelow n t y) (k : Nat) (m : Word) :
    AgreeBelow (n + k) (undoLeftWindow (stepLeft y k m) k m t) y := fun j hj => by
  have hread : (t <<< k).getLsbD j = (y <<< k).getLsbD j := by
    rw [BitVec.getLsbD_shiftLeft, BitVec.getLsbD_shiftLeft]
    by_cases hjk : j < k
    · simp [hjk]
    · rw [h (j - k) (by omega)]
  rw [undoLeftWindow, stepLeft, BitVec.getLsbD_xor, BitVec.getLsbD_xor, BitVec.getLsbD_and, BitVec.getLsbD_and,
    hread, Bool.xor_assoc, Bool.xor_self, Bool.xor_false]

/-- One window undoes the step by 15: the mask leaves the low 17 bits alone. -/
theorem undoLeftWindow_stepLeft_t3 (y : Word) :
    undoLeftWindow (stepLeft y t3Shift t3Mask) t3Shift t3Mask (stepLeft y t3Shift t3Mask) = y := by
  have h17 : AgreeBelow 17 (stepLeft y t3Shift t3Mask) y := agreeBelow_stepLeft (by decide) y _
  exact (h17.window _ _).eq (by decide)

/-- Four windows undo the step by 7: from the 7 bits below the mask to 35. -/
theorem undoLeftWindow_stepLeft_t2 (y : Word) :
    let window := undoLeftWindow (stepLeft y t2Shift t2Mask) t2Shift t2Mask
    window (window (window (window (stepLeft y t2Shift t2Mask)))) = y := by
  have h7 : AgreeBelow 7 (stepLeft y t2Shift t2Mask) y := agreeBelow_stepLeft (by decide) y _
  exact ((((h7.window _ _).window _ _).window _ _).window _ _).eq (by decide)

/-- Settles O22: on `temper v`, which every word is, each stage of the form undoes one step of the tempering. -/
theorem untemperEqualsItsWholeWordForm : Obligations.UntemperEqualsItsWholeWordForm := by
  intro z
  obtain ⟨v, rfl⟩ := temper_surjective z
  rw [untemper_temper]
  intro y3 y2 window y1
  let x1 := stepRight v t1Shift fullMask
  let x2 := stepLeft x1 t2Shift t2Mask
  have h3 : y3 = stepLeft x2 t3Shift t3Mask := by
    simp only [y3, temper_eq_steps]
    exact xor_ushiftRight_stepRight_of_half _ (by decide)
  have h2 : y2 = x2 := by
    simp only [y2, h3]
    exact undoLeftWindow_stepLeft_t3 x2
  have h1 : y1 = x1 := by
    simp only [y1, window, h2]
    exact undoLeftWindow_stepLeft_t2 x1
  rw [h1]
  exact (xor_ushiftRight_stepRight v (k := t1Shift) (by decide)).symm

/-! ### UNTEMPER (R131) -/

/-- Settles O24: behind the FATAL check UNTEMPER only responds, and the inverse laws make its answer the one preimage. -/
theorem untemperAnswersTheRawWord : Obligations.UntemperAnswersTheRawWord := by
  intro v s
  refine ⟨rfl, fun hf => ⟨untemper v, temper_untemper v, fun y' hy' => ?_, ?_⟩, exec_of_fatal (i := .untemper v) nofun⟩
  · rw [← hy', untemper_temper]
  · exact congrArg Host.Outcome.next (unlessFatal_of_not_fatal _ hf)

end Sys2Proof

/-! SUPPORT. The statements about cloning a generator (spec/44_state_cloner.md). LDOBS is LDRAW of the untempered word, so
CLONE is FROMSTATE of the untempered words; at a twist boundary those words are the original's whole array. -/

namespace Sys2Proof

open Sys2Proof.Machine

/-! ### LDBEGIN, LDRAW, LDOBS and LDCOMMIT (R140 to R143) -/

/-- Settles O38. -/
theorem ldbeginClearsTheCount : Obligations.LdbeginClearsTheCount := fun _ =>
  ⟨by decide, fun hf => congrArg Host.Outcome.next (unlessFatal_of_not_fatal _ hf), exec_of_fatal (i := .ldbegin) nofun⟩

/-- Settles O39, by the two cases of an append. -/
theorem ldrawAppendsOneWord : Obligations.LdrawAppendsOneWord := by
  intro w s
  refine ⟨rfl, fun hf hroom => ?_, fun hf hfull => ?_, exec_of_fatal (i := .ldraw w) nofun⟩ <;>
    rw [loads_ldraw w s hf, id] <;> obtain ⟨hlt, ha⟩ | ⟨hge, ha⟩ := appendWord_cases w s
  · refine ⟨setWord s.lb s.lcnt.toNat w, by rw [ha]; rfl, ?_, fun j hj hne => ?_⟩
    · rw [wordAt_setWord _ _ hroom hroom, if_pos rfl]
    · rw [wordAt_setWord _ _ hroom hj, if_neg hne.symm]
  · omega
  · omega
  · rw [ha]
    rfl

/-- R142: LDOBS runs as LDRAW of the untempered word. -/
theorem exec_ldobs (o : Word) (s : State) : exec (.ldobs o) s = exec (.ldraw (untemper o)) s := rfl

/-- Settles O40: untempering a tempered word gives the raw word, which LDRAW stores. -/
theorem ldobsAppendsTheUntemperedWord : Obligations.LdobsAppendsTheUntemperedWord := by
  refine fun o s => ⟨rfl, exec_ldobs o s, ?_⟩
  rintro w hf hroom rfl
  obtain ⟨-, hstore, -⟩ := ldrawAppendsOneWord w s
  rw [exec_ldobs, untemper_temper]
  exact hstore hf hroom

theorem exec_ldcommit_of_not_fatal {s : State} (hf : s.fatal = false) : exec .ldcommit s = .next (commitLoad s) :=
  congrArg Host.Outcome.next (unlessFatal_of_not_fatal _ hf)

theorem zextCount_eq_append (n : BitVec 10) : zextCount n = 0#22 ++ n := BitVec.setWidth_eq_append (by decide)

/-- Settles O41, by the two cases of a commit. -/
theorem ldcommitInstallsExactly624Words : Obligations.LdcommitInstallsExactly624Words := by
  intro s
  refine ⟨by decide, fun hf hl => ?_, fun hf hl => ?_, exec_of_fatal (i := .ldcommit) nofun⟩ <;>
    rw [exec_ldcommit_of_not_fatal hf] <;> obtain ⟨hl', hc⟩ | ⟨hl', hc⟩ := commitLoad_cases s
  · rw [hc]
    rfl
  · exact absurd hl hl'
  · exact absurd hl' hl
  · rw [hc, raise_invalidStateLength, zextCount_eq_append]
    rfl

/-! ### What these commands leave unchanged -/

/-- Behind the FATAL check a command is refused or follows its own rule (R75). -/
theorem refused_or_done {body : State → State} {s t : State} (h : (.next (unlessFatal body s) : Result) = .next t) :
    t = respond .errFatal 0#32 s ∨ t = body s := by
  cases h
  cases hf : s.fatal with
  | true => exact .inl (unlessFatal_of_fatal body hf)
  | false => exact .inr (unlessFatal_of_not_fatal body hf)

/-- An append writes no word of the buffer but the one at the count (R141). -/
theorem wordAt_appendWord_lb_of_ne (w : Word) (s : State) {j : Nat} (hj : j < 624) (hne : j ≠ s.lcnt.toNat) :
    wordAt (appendWord w s).lb j = wordAt s.lb j := by
  obtain ⟨hlt, ha⟩ | ⟨-, ha⟩ := appendWord_cases w s <;> rw [ha]
  exact (wordAt_setWord _ _ hlt hj).trans (if_neg hne.symm)

/-- The frame of LDRAW, and through `exec_ldobs` of LDOBS (R141, R142). -/
theorem exec_ldraw_frame {w : Word} {s t : State} (h : exec (.ldraw w) s = .next t) :
    SameCore { t with lb := s.lb, lcnt := s.lcnt } s ∧ t.inputs = s.inputs ∧
      ∀ j, j < 624 → j ≠ s.lcnt.toNat → wordAt t.lb j = wordAt s.lb j := by
  obtain rfl | rfl := refused_or_done h
  · exact ⟨rfl, rfl, fun _ _ _ => rfl⟩
  · refine ⟨?_, ?_, fun j => wordAt_appendWord_lb_of_ne w s⟩ <;> rw [appendWord_frame] <;> rfl

/-- Settles O42. -/
theorem smallWritersFrame : Obligations.SmallWritersFrame := by
  intro i s t h
  refine ⟨?_, ?_, ?_⟩
  · rintro (rfl | ⟨w, rfl⟩ | ⟨o, rfl⟩)
    · obtain rfl | rfl := refused_or_done h <;> exact ⟨rfl, rfl, fun _ _ _ => rfl, fun _ => rfl⟩
    · obtain ⟨hcore, hinputs, hlb⟩ := exec_ldraw_frame h
      exact ⟨hcore, hinputs, hlb, nofun⟩
    · obtain ⟨hcore, hinputs, hlb⟩ := exec_ldraw_frame h
      exact ⟨hcore, hinputs, hlb, nofun⟩
  · rintro rfl
    obtain rfl | rfl := refused_or_done h <;> exact ⟨rfl, rfl⟩
  · rintro rfl
    obtain rfl | rfl := refused_or_done h <;> exact ⟨rfl, rfl⟩

/-- Settles O43: refused, installed, or a wrong count. -/
theorem ldcommitFrame : Obligations.LdcommitFrame := by
  intro s t h
  obtain rfl | rfl := refused_or_done h
  · exact ⟨rfl, rfl, rfl, rfl, rfl, rfl, fun _ => ⟨rfl, rfl, rfl, rfl⟩, fun _ => rfl⟩
  · obtain ⟨hl, hc⟩ | ⟨hl, hc⟩ := commitLoad_cases s <;> rw [hc]
    · exact ⟨rfl, rfl, rfl, rfl, rfl, rfl, fun hne => absurd hl hne, fun _ => rfl⟩
    · exact ⟨rfl, rfl, rfl, rfl, rfl, rfl, fun _ => ⟨rfl, rfl, rfl, rfl⟩, fun heq => absurd heq hl⟩

/-! ### Sequences of commands (R83) -/

theorem exec_of_send {i : Instr} {s t : State} {r : Response} (h : send i s = some (r, t)) : exec i s = .next t := by
  obtain ⟨u, hu⟩ := exec_answers i s
  simp only [send, hu, Option.map_eq_some_iff, Prod.mk.injEq] at h
  obtain ⟨-, -, -, rfl⟩ := h
  exact hu

/-- What every command of a sequence keeps, the sequence keeps, wherever it stops. -/
theorem sendAll_keeps {P : State → Prop} {is : List Instr} {s t : State} {rs : List Response}
    (hkeep : ∀ i ∈ is, ∀ u v, exec i u = .next v → P u → P v) (h : sendAll is s = some (rs, t)) (hs : P s) : P t := by
  induction is generalizing s rs with
  | nil =>
    cases h
    exact hs
  | cons i is ih =>
    unfold sendAll at h
    split at h
    · cases h
    · next r u hsend =>
      have hu : P u := hkeep i List.mem_cons_self s u (exec_of_send hsend) hs
      split at h
      · split at h
        · cases h
        · next hrest =>
          cases h
          exact ih (fun j hj => hkeep j (List.mem_cons_of_mem i hj)) hrest hu
      · cases h
        exact hu

/-- Sequences whose commands run alike, one by one, run alike. -/
theorem sendAll_congr {is js : List Instr} (h : List.Forall₂ (fun i j => ∀ s, exec i s = exec j s) is js) (s : State) :
    sendAll is s = sendAll js s := by
  induction h generalizing s with
  | nil => rfl
  | cons hij _ ih => simp only [sendAll, send, hij, ih]

/-- R142, R83: CLONE runs as FROMSTATE of the untempered words. -/
theorem runPseudo_clone (os : List Word) (s : State) :
    runPseudo (.clone os) s = runPseudo (.fromState (os.map untemper)) s := by
  refine sendAll_congr ?_ s
  have hloads : List.Forall₂ (fun i j => ∀ s, exec i s = exec j s) (os.map .ldobs) ((os.map untemper).map .ldraw) := by
    simp [List.forall₂_map_left_iff, List.forall₂_map_right_iff, List.forall₂_same, exec_ldobs]
  exact .cons (fun _ => rfl) (List.rel_append hloads (.cons (fun _ => rfl) .nil))

/-! ### The aligned clone (R145) -/

/-- EXTRACT never leaves the cursor at 0: the draw that sets it to 0 by a twist then moves it on (R24, R123). -/
theorem cursor_pos_of_extract {s t : State} (h : exec .extract s = .next t) (hs : 0 < s.idx.toNat) : 0 < t.idx.toNat := by
  cases effect_of_exec h with
  | drew _ _ _ _ hd =>
    obtain hi | ⟨hi, -⟩ := hd.cursor
    · exact hi ▸ hs
    · exact hi
  | _ => exact hs

theorem cursor_pos_of_drawWords {k : Nat} {s t : State} {ws : Except Response (List Word)}
    (h : drawWords k s = some (ws, t)) (hs : 0 < s.idx.toNat) : 0 < t.idx.toNat := by
  unfold drawWords at h
  split at h
  · cases h
  · next hall =>
    cases h
    refine sendAll_keeps (P := fun u => 0 < u.idx.toNat) (fun i hi u v => ?_) hall hs
    rw [List.eq_of_mem_replicate hi]
    exact cursor_pos_of_extract

/-- A core that stands before the end of a generation, with its cursor not at 0, has that generation's array and its cursor
behind it (R113). -/
theorem readsFrom_boundary {mt : Words} {q : Nat} {s : State} (h : ReadsFrom mt (624 * q + 624) s) (hpos : 0 < s.idx.toNat) :
    s.mt = twist^[q] mt ∧ s.idx = 624#10 := by
  obtain ⟨-, -, hle, q', hmt, hn⟩ := h
  obtain ⟨rfl, hi⟩ : q' = q ∧ s.idx.toNat = 624 := by omega
  exact ⟨hmt, BitVec.eq_of_toNat_eq hi⟩

/-- Settles O45: the words captured are those of the array that the first draw's twist made, which the original still has. -/
theorem alignedCloneEqualsTheOriginal : Obligations.AlignedCloneEqualsTheOriginal := by
  intro s t hf hv hi htf
  have hs : ReadsFrom s.mt 624 s := by simpa [hi] using readsFrom_self hf hv (by simp [hi])
  obtain ⟨s', hdraw, hs'⟩ := readsFrom_drawWords 624 hs
  obtain ⟨hmt, hidx⟩ := readsFrom_boundary (q := 1) hs' (cursor_pos_of_drawWords hdraw (by simp [hi]))
  obtain ⟨hload, -⟩ := fromStateNeedsExactly624Words
    (((List.range' 624 624).map fun j => temper (streamWord s.mt j)).map untemper) t htf
  obtain ⟨rs, t', hrun, hok, hwords, hidx', hvalid', -⟩ := hload (by simp)
  refine ⟨_, s', t', rs, hdraw, (runPseudo_clone _ t).trans hrun, hok, words_ext fun j (hj : j < 624) => ?_,
    hidx, hidx', hvalid'⟩
  have hword : streamWord s.mt (624 + j) = wordAt t'.mt j := by
    simpa [hj, untemper_temper] using hwords j hj
  rw [← hword, hmt, ← rawWord_of_lt _ hj]
  exact streamWord_eq_rawWord s.mt 1 (by omega)

end Sys2Proof

/-! SUPPORT. The statements about the byte stream (spec/45_stream_cipher.md). NEXTBYTE is XORB of the zero byte, so what a byte
draw can do is said once, for XORB; encrypting twice xors every byte with the same stream byte twice. -/

namespace Sys2Proof

open Sys2Proof.Machine

/-! ### What `next_byte()` can do (R150) -/

theorem Drawn.lb_eq {s t : State} (h : Drawn s t) : t.lb = s.lb := by rw [h.frame]
theorem Drawn.inputs_eq {s t : State} (h : Drawn s t) : t.inputs = s.inputs := by rw [h.frame]
theorem Drawn.responses_eq {s t : State} (h : Drawn s t) : t.responses = s.responses := by rw [h.frame]

/-- Only a draw with no byte held can meet the broken cursor, and a held byte only counts KSN down. -/
theorem nextByte_broken_or_drawn (s : State) :
    (s.ksn = 0#3 ∧ 624 < s.idx.toNat ∧ nextByte s = .error .fatalCursor) ∨
    ∃ b t, nextByte s = .ok (b, t) ∧ Drawn s t ∧ (s.ksn ≠ 0#3 → t = (takeByte s).2) := by
  have hout := nextByte_outcome s
  by_cases hk : s.ksn = 0#3
  · cases hn : nextByte s <;> rw [hn] at hout <;> cases hout
    case error.broken hi => exact .inl ⟨hk, hi, rfl⟩
    case ok.drawn p hp => exact .inr ⟨p.1, p.2, rfl, hp, fun hne => absurd hk hne⟩
  · rw [nextByte_of_held hk] at hout
    cases hout with
    | drawn hd => exact .inr ⟨_, _, nextByte_of_held hk, hd, fun _ => rfl⟩

/-! ### XORB and NEXTBYTE (R151, R152) -/

theorem zextByte_eq_append (b : Byte) : zextByte b = 0#24 ++ b := BitVec.setWidth_eq_append (by decide)

theorem encode_xorb (d : Byte) : encode (.xorb d) = 0x05#8 ++ 0#24 ++ d := by
  have hword : encode (.xorb d) = 0x05#8 ++ zextByte d := rfl
  rw [hword, zextByte_eq_append, BitVec.append_assoc']
  rfl

/-- XORB of the zero byte runs as NEXTBYTE: xoring with zero leaves the byte. -/
theorem exec_xorb_zero (s : State) : exec (.xorb 0) s = exec .nextbyte s := by
  have hdraw : drawByteXor 0 = drawByte := by
    funext u
    rw [drawByteXor_eq_map, drawByte_eq_map]
    simp only [BitVec.ofNat_eq_ofNat, BitVec.zero_xor]
  rw [exec, exec, execXorb, execNextbyte, hdraw]

theorem exec_xorb_of_ok (d : Byte) {s : State} {p : Byte × State} (hf : s.fatal = false) (hv : s.valid = true)
    (hn : nextByte s = .ok p) : exec (.xorb d) s = .next (respond .ok (zextByte (d ^^^ p.1)) p.2) := by
  have hd : drawByteXor d s = .ok (zextByte (d ^^^ p.1), p.2) := by rw [drawByteXor_eq_map, hn]; rfl
  rw [exec, execXorb, unlessFatal_of_not_fatal _ hf, answerDraw_of_ok hv hd]

/-- What XORB can do: refused, one of its two errors, or the data byte xored with the next byte (R75, R152). -/
theorem exec_xorb_cases (d : Byte) (s : State) :
    (s.fatal = true ∧ exec (.xorb d) s = .next (respond .errFatal 0#32 s)) ∨
    (s.valid = false ∧ exec (.xorb d) s = .next (raise .unseeded 0#32 s)) ∨
    (s.ksn = 0#3 ∧ 624 < s.idx.toNat ∧ exec (.xorb d) s = .next (raise .fatalCursor 0#32 s)) ∨
    ∃ b t, Drawn s t ∧ (s.ksn ≠ 0#3 → t = (takeByte s).2) ∧
      exec (.xorb d) s = .next (respond .ok (zextByte (d ^^^ b)) t) := by
  cases hf : s.fatal with
  | true => exact .inl ⟨rfl, exec_of_fatal (i := .xorb d) nofun hf⟩
  | false =>
    have hexec : exec (.xorb d) s = .next (answerDraw (drawByteXor d) s) := congrArg _ (unlessFatal_of_not_fatal _ hf)
    cases hv : s.valid with
    | false => exact .inr (.inl ⟨rfl, by rw [hexec, answerDraw, hv]; rfl⟩)
    | true =>
      obtain ⟨hk, hi, hn⟩ | ⟨b, t, hn, hd, hheld⟩ := nextByte_broken_or_drawn s
      · have hdraw : drawByteXor d s = .error .fatalCursor := by rw [drawByteXor_eq_map, hn]; rfl
        exact .inr (.inr (.inl ⟨hk, hi, by simp only [hexec, answerDraw, hv, hdraw, if_true]⟩))
      · exact .inr (.inr (.inr ⟨b, t, hd, hheld, exec_xorb_of_ok d hf hv hn⟩))

/-- Settles O31: both commands answer from one call of `next_byte()`. -/
theorem xorbXorsTheNextByte : Obligations.XorbXorsTheNextByte := by
  refine fun d s => ⟨encode_xorb d, exec_xorb_zero s, fun hf hv hi => ?_⟩
  obtain ⟨hk, hbroken, -⟩ | ⟨b, t, hn, hd, -⟩ := nextByte_broken_or_drawn s
  · exact absurd (hi hk) (Nat.not_le.2 hbroken)
  · refine ⟨b, t, ?_, ?_⟩ <;> rw [← hd.responses_eq, ← zextByte_eq_append]
    · exact exec_nextbyte_of_ok hf hv hn
    · exact exec_xorb_of_ok d hf hv hn

/-- Settles O35, by what XORB can do. -/
theorem byteDrawFrame : Obligations.ByteDrawFrame := by
  intro i s t hi h
  obtain ⟨d, hd⟩ : ∃ d, exec i s = exec (.xorb d) s := by
    obtain rfl | ⟨d, rfl⟩ := hi
    · exact ⟨0, (exec_xorb_zero s).symm⟩
    · exact ⟨d, rfl⟩
  rw [hd] at h
  obtain ⟨-, he⟩ | ⟨hv, he⟩ | ⟨hk, hbroken, he⟩ | ⟨b, u, hu, hheld, he⟩ := exec_xorb_cases d s <;> rw [he] at h <;> cases h
  · simp
  · simp [raise_unseeded, hv]
  · simp [raise_fatalCursor, hk, hbroken]
  · refine ⟨?_, fun hk => ?_, hu.valid_eq, hu.lb_eq, hu.lcnt_eq, hu.eLen_eq, hu.eIll_eq, hu.inputs_eq, fun _ => hu.eUns_eq,
      fun _ => hu.fatal_eq⟩
    · by_cases hk : s.ksn = 0#3
      · exact hu.array.imp_right fun htwist => ⟨hk, htwist⟩
      · exact .inl (by rw [hheld hk]; rfl)
    · rw [hheld hk]
      exact ⟨rfl, rfl, rfl⟩

/-- Settles O34. -/
theorem byteiterDropsHeldBytes : Obligations.ByteiterDropsHeldBytes := fun _ =>
  ⟨by decide, fun hf => congrArg Host.Outcome.next (unlessFatal_of_not_fatal _ hf), exec_of_fatal (i := .byteiter) nofun⟩

/-! ### Encrypting twice (R155, R156) -/

/-- Xoring twice with the same stretch of the stream gives the data back. -/
theorem xorStream_xorStream (mt : Words) (m : Nat) (data : List Byte) : xorStream mt m (xorStream mt m data) = data := by
  induction data generalizing m with
  | nil => rfl
  | cons d data ih => rw [xorStream_cons, xorStream_cons, ih, BitVec.xor_assoc, BitVec.xor_self, BitVec.xor_zero]

/-- A message depends on its seeding only through what that command does. -/
theorem encryptWith_congr {i j : Instr} (h : ∀ s, exec i s = exec j s) (data : List Byte) (s : State) :
    encryptWith i data s = encryptWith j data s := by
  have hsend : sendAll (i :: data.map .xorb) s = sendAll (j :: data.map .xorb) s :=
    sendAll_congr (.cons h (List.forall₂_same.2 fun _ _ _ => rfl)) s
  rw [encryptWith, hsend, encryptWith]

/-- Settles O37: either seeding runs as a SEED, which leaves any live core before the same stretch of the stream. -/
theorem encryptIsSelfInverse : Obligations.EncryptIsSelfInverse := by
  intro seeding data s s' hseed hf hf'
  obtain ⟨w, hw⟩ : ∃ w, ∀ u, exec seeding u = exec (.seed w) u := by
    obtain ⟨w, rfl⟩ | ⟨k, rfl⟩ := hseed
    · exact ⟨w, fun _ => rfl⟩
    · exact ⟨_, exec_seed16 k⟩
  obtain ⟨t, ht⟩ := encryptWith_seed w data hf
  obtain ⟨t', ht'⟩ := encryptWith_seed w (decryptedUnder w data) hf'
  rw [show decryptedUnder w (decryptedUnder w data) = data from xorStream_xorStream ..] at ht'
  exact ⟨_, t, t', (encryptWith_congr hw ..).trans ht, (encryptWith_congr hw ..).trans ht'⟩

end Sys2Proof

/-! SUPPORT. The 16-bit SeedSearch (spec/46_seed_search.md R161, R163, R164). A key runs as the SEED of its zero extension, and
comparing byte by byte says what comparing the whole decryption would. -/

namespace Sys2Proof

open Sys2Proof.Machine

/-! ### Decrypting under a key (R102, R155) -/

/-- The word that SEED16 of candidate `k` seeds the generator with (R102). -/
def keyWord (k : Nat) : Word := 0#16 ++ BitVec.ofNat 16 k

theorem exec_seedKey (k : Nat) (s : State) : exec (seedKey k) s = exec (.seed (keyWord k)) s := exec_seed16 _ s

/-- A core that has just been seeded with key `k`. -/
theorem send_seedKey (k : Nat) {s : State} (hf : s.fatal = false) :
    ∃ t, send (seedKey k) s = some (⟨.ok, 0#32⟩, t) ∧ ReadsBytesFrom (seedExpand (keyWord k)) (4 * 624) t := by
  rw [send, exec_seedKey]
  exact send_seed (keyWord k) hf

/-- Whether the ciphertext decrypted under key `k` is the plaintext (R161). -/
def keyDecrypts (plain cipher : List Byte) (k : Nat) : Bool := decryptedUnder (keyWord k) cipher == plain

/-- What the host can see of a key: its decryption is the plaintext exactly when `keyDecrypts`. -/
theorem keyDecrypts_iff (plain cipher : List Byte) (k : Nat) {s : State} (hf : s.fatal = false) :
    keyDecrypts plain cipher k = true ↔ ∃ t, encryptWith (.seed16 (BitVec.ofNat 16 k)) cipher s = some (.ok plain, t) := by
  obtain ⟨u, hu⟩ := encryptWith_seed (keyWord k) cipher hf
  rw [← encryptWith_congr (exec_seedKey k)] at hu
  rw [keyDecrypts, beq_iff_eq]
  constructor
  · rintro rfl
    exact ⟨u, hu⟩
  · rintro ⟨t, ht⟩
    cases hu.symm.trans ht
    rfl

/-! ### The search over the keys (R161, R163, R164) -/

/-- Comparing byte by byte up to the first mismatch says whether the whole decryption is the plaintext, and the core stays
live. -/
theorem matchesPlaintext_of_reads {mt : Words} {m : Nat} {plain cipher : List Byte} {s : State}
    (hlen : plain.length = cipher.length) (h : ReadsBytesFrom mt m s) :
    ∃ t, matchesPlaintext (cipher.zip plain) s =
      some (if xorStream mt m cipher = plain then .passed else .mismatch, t) ∧ t.fatal = false := by
  induction cipher generalizing m plain s with
  | nil =>
    obtain rfl : plain = [] := List.eq_nil_of_length_eq_zero hlen
    exact ⟨s, rfl, h.words.live⟩
  | cons c cipher ih =>
    obtain ⟨p, plain, rfl⟩ := List.exists_cons_of_length_eq_add_one hlen
    obtain ⟨u, hsend, hu⟩ := readsBytesFrom_send_xorb h c
    have hbyte : responseByte ⟨.ok, zextByte (c ^^^ streamByte mt m)⟩ = c ^^^ streamByte mt m := responseByte_byteResponse _
    by_cases hp : c ^^^ streamByte mt m = p
    · subst hp
      obtain ⟨t, htest, ht⟩ := ih (Nat.succ.inj hlen) hu
      exact ⟨t, by simp [matchesPlaintext, hsend, hbyte, htest, xorStream_cons], ht⟩
    · exact ⟨u, by simp [matchesPlaintext, hsend, hbyte, hp, xorStream_cons], hu.words.live⟩

/-- On live cores every key is seeded and tested, and the core stays live. -/
theorem answers_seedKey {plain cipher : List Byte} (hlen : plain.length = cipher.length) :
    Answers seedKey (matchesPlaintext (cipher.zip plain)) (keyDecrypts plain cipher) (·.fatal = false) := by
  intro k s hf
  obtain ⟨t, hsend, ht⟩ := send_seedKey k hf
  obtain ⟨u, htest, hu⟩ := matchesPlaintext_of_reads hlen ht
  exact ⟨_, t, u, hsend, by simpa only [keyDecrypts, decryptedUnder, beq_iff_eq] using htest, hu⟩

/-- Settles O56: on live cores the search reports the first key that decrypts, on one core or spread over several; under FATAL
its first seeding is refused. -/
theorem seedSearchFindsTheLowestKey : Obligations.SeedSearchFindsTheLowestKey := by
  refine ⟨fun plain cipher s hf hlen _ => ?_, fun plain cipher s hf => ?_⟩
  · have hans := answers_seedKey hlen
    obtain ⟨u, hone, -⟩ := searchFrom_eq hans 65536 0 hf
    simp only [← keyDecrypts_iff _ _ _ hf, Bool.not_eq_true]
    refine ⟨?_, fun cores hne hlive => ?_⟩
    · obtain ⟨k, hfound, -, hk, hpass, hlow⟩ | ⟨hnone, hall⟩ := firstFrom_cases (keyDecrypts plain cipher) 65536 0
      · exact .inl ⟨k, u, hone.trans (by rw [hfound]), by omega, hpass, fun j => hlow j j.zero_le⟩
      · exact .inr ⟨u, hone.trans (by rw [hnone]), fun j hj => hall j j.zero_le (by omega)⟩
    · obtain ⟨us, hspread⟩ := searchSpread_eq hans 65536 0 hne hlive
      rw [seedSearch16Parallel, seedSearch16, hspread, hone]
      rfl
  · have hsend : send (seedKey 0) s = _ := send_of_exec (exec_of_fatal (i := seedKey 0) nofun hf) (respond_responses ..)
    exact ⟨_, searchFrom_of_refused (by decide) hsend nofun⟩

end Sys2Proof

/-! SUPPORT. The statements about NOP and CLRERR (spec/47_system.md). -/

namespace Sys2Proof

open Sys2Proof.Machine

/-- Settles O47: behind the FATAL check NOP only responds (R170). -/
theorem nopAnswersOk : Obligations.NopAnswersOk := by
  intro s
  refine ⟨by decide, fun hf => ?_, exec_of_fatal (i := .nop) nofun⟩
  exact congrArg Host.Outcome.next (unlessFatal_of_not_fatal _ hf)

/-- Settles O49: behind the FATAL check CLRERR responds from the state with the sticky bits cleared (R172). -/
theorem clrerrClearsTheStickyBits : Obligations.ClrerrClearsTheStickyBits := by
  intro s
  refine ⟨by decide, fun hf => ?_, exec_of_fatal (i := .clrerr) nofun⟩
  exact congrArg Host.Outcome.next (unlessFatal_of_not_fatal _ hf)

end Sys2Proof

/-! SUPPORT. The statements about the errors (spec/60_exceptions.md), about reset (spec/70_reset_and_hazards.md) and about
waiting. Behind the FATAL check a word that is no command, a draw before any seeding and a draw at a broken cursor each end in
one `raise` on the state from before the command; that is all they do (R184). -/

namespace Sys2Proof

open Sys2Proof.Machine

/-! ### Illegal words (R182) -/

theorem rejectWord_of_not_fatal {s : State} (hf : s.fatal = false) : rejectWord s = raise .illegalCommand 0#32 s :=
  unlessFatal_of_not_fatal _ hf

theorem runCommand_of_illegal {c : Command} {e : DecodeError} {s : State} (hdec : decode c = .error e)
    (hf : s.fatal = false) : runCommand c s = .next (raise .illegalCommand 0#32 s) := by
  simp only [runCommand, hdec, rejectWord_of_not_fatal hf]

/-- Settles O8. -/
theorem illegalWordSetsEIll : Obligations.IllegalWordSetsEIll := fun _ _ _ _ hin hdec hf =>
  (step_of_command hin).trans (runCommand_of_illegal hdec hf)

/-! ### Draws that fail (R181, R183) -/

/-- The drawing commands have one shape, each around its own draw. -/
theorem exec_of_draws {i : Instr} (hi : Draws i) :
    ∃ draw, ∀ s, exec i s = .next (unlessFatal (answerDraw draw) s) := by
  obtain rfl | rfl | ⟨d, rfl⟩ := hi
  · exact ⟨extract, fun _ => rfl⟩
  · exact ⟨drawByte, fun _ => rfl⟩
  · exact ⟨drawByteXor d, fun _ => rfl⟩

section Failing

variable {draw : State → Except CoreError (Word × State)} {s : State}

theorem answerDraw_of_unseeded (hv : s.valid = false) : answerDraw draw s = raise .unseeded 0#32 s := by
  rw [answerDraw, hv]
  rfl

theorem answerDraw_of_error {e : CoreError} (hv : s.valid = true) (hd : draw s = .error e) :
    answerDraw draw s = raise e 0#32 s := by
  rw [answerDraw, hv, hd]
  rfl

theorem extract_of_gt (hi : 624 < s.idx.toNat) : extract s = .error .fatalCursor := by
  rw [extract, if_pos hi]

/-- With no byte held the byte draw needs a word, and fails where EXTRACT fails. -/
theorem drawByteXor_of_gt (d : Byte) (hk : s.ksn = 0#3) (hi : 624 < s.idx.toNat) :
    drawByteXor d s = .error .fatalCursor := by
  rw [drawByteXor_eq_map, nextByte_of_none_held hk, extract_of_gt hi]
  rfl

theorem exec_xorb_of_gt (d : Byte) (hk : s.ksn = 0#3) (hf : s.fatal = false) (hv : s.valid = true)
    (hi : 624 < s.idx.toNat) : exec (.xorb d) s = .next (raise .fatalCursor 0#32 s) := by
  rw [exec, execXorb, unlessFatal_of_not_fatal _ hf, answerDraw_of_error hv (drawByteXor_of_gt d hk hi)]

end Failing

/-- Settles O27: the check of VALID comes before the draw. -/
theorem unseededDrawSetsEUns : Obligations.UnseededDrawSetsEUns := by
  intro i s hi hf hv
  obtain ⟨draw, hexec⟩ := exec_of_draws hi
  rw [hexec, unlessFatal_of_not_fatal _ hf, answerDraw_of_unseeded hv, raise_unseeded]
  rfl

/-- Settles O28: EXTRACT meets the cursor itself, XORB with no byte held through EXTRACT's draw, and NEXTBYTE is XORB of the
zero byte. -/
theorem brokenCursorSetsFatal : Obligations.BrokenCursorSetsFatal := by
  intro i s hi hf hv hidx
  suffices hraise : exec i s = .next (raise .fatalCursor 0#32 s) by rw [hraise, raise_fatalCursor]; rfl
  obtain rfl | ⟨hk, rfl | ⟨d, rfl⟩⟩ := hi
  · rw [exec, execExtract, unlessFatal_of_not_fatal _ hf, answerDraw_of_error hv (extract_of_gt hidx)]
  · rw [← exec_xorb_zero, exec_xorb_of_gt 0 hk hf hv hidx]
  · exact exec_xorb_of_gt d hk hf hv hidx

/-! ### Reset and waiting (R200, R201, R208) -/

theorem sameCore_assertReset (s : State) : SameCore (assertReset s) State.reset := rfl

/-- A word in flight plays no part in a reset. -/
theorem step_of_reset {s : State} {x : HostInput} {rest : List HostInput} (h : s.inputs = x :: rest)
    (hx : x = .reset ∨ ∃ c, x = .commandThenReset c) : step s = .next (assertReset { s with inputs := rest }) := by
  obtain rfl | ⟨c, rfl⟩ := hx <;> simp only [step, serveInput, h]

/-- Settles O12. -/
theorem resetAbandonsTheCommandInFlight : Obligations.ResetAbandonsTheCommandInFlight := fun _ _ _ h hx =>
  ⟨_, step_of_reset h hx, sameCore_assertReset _, assertReset_inputs _, assertReset_responses _⟩

/-- Settles O10. -/
theorem noInputChangesNothing : Obligations.NoInputChangesNothing := by
  intro s h
  simp only [step, serveInput, h]

end Sys2Proof
